-- ==== Sys2Proof/Word.lean ====
section
/-! DEFINITION. The word types of the block and the plainest arithmetic on them (rules R8, R9, R10). -/

namespace Sys2Proof

/-- A 32-bit word: a Q16.16 raw value or a binary32 pattern (rules R2, R27, R29). -/
abbrev Word := BitVec 32

/-- An 8-bit word: the command word and one character of the formatter's string (rules R60, R179). -/
abbrev Byte := BitVec 8

/-- `s32(w)` of rule R9: the pattern read as a two's-complement integer. -/
abbrev s32 (w : Word) : Int := w.toInt

/-- `u32(n)` of rule R9: the integer reduced modulo 2^32. -/
abbrev u32 (n : Int) : Word := BitVec.ofInt 32 n

/-- `INT32_MAX` of rule R9. -/
abbrev int32Max : Word := 0x7FFFFFFF#32

/-- `INT32_MIN` of rule R9. -/
abbrev int32Min : Word := 0x80000000#32

/-- `abs(n)` of rule R9, of the integer a word stands for; `abs(-2^31) = 2^31` (decision D15). -/
abbrev magnitude (w : Word) : Nat := (s32 w).natAbs

end Sys2Proof
end

