-- ==== Sys2Proof/Config.lean ====
section
/-! DEFINITION. What the implementation fixes: the parameters of rule R7, the port list of rule R20, and the free
values the spec leaves open (opaque constants: nothing can evaluate them or prove a value of them). -/

namespace Sys2Proof

/-- The ports of rule R20. -/
inductive Port where
  | clk | rst | reqValid | reqReady | reqCmd | reqA | reqB
  | rspValid | rspResult | rspErr | rspStr | rspLen
  deriving DecidableEq, Repr

/-- The direction of a port, as the block sees it. -/
inductive Direction where
  | input | output
  deriving DecidableEq, Repr

/-- The direction column of rule R20's table. -/
def Port.direction : Port → Direction
  | .clk | .rst | .reqValid | .reqCmd | .reqA | .reqB => .input
  | .reqReady | .rspValid | .rspResult | .rspErr | .rspStr | .rspLen => .output

/-- The width column of rule R20's table. -/
def Port.width : Port → Nat
  | .clk | .rst | .reqValid | .reqReady | .rspValid => 1
  | .reqCmd => 8
  | .reqA | .reqB | .rspResult => 32
  | .rspErr => 3
  | .rspStr => 128
  | .rspLen => 4

/-- `FRACTIONAL_BITS` (rules R7, R28). -/
abbrev Config.fractionalBits : Nat := 16

/-- `ONE` (rules R7, R28): the raw value of 1.0. -/
abbrev Config.one : Word := 0x00010000#32

/-- `DENORM_CLAMP_EXP`, default 113 (rules R7, R142; decision D13). `f2qWord` takes it as an argument. -/
abbrev Config.denormClampExp : Nat := 113

/-- The least biased exponent that `F2Q` reports out of range (rules R7, R143). -/
abbrev Config.outOfRangeExp : Nat := 142

/-- The shift constant of `F2Q`, `127 + 16 - 9` (rules R7, R144), and the exponent seed of `Q2F` (rule R150). -/
abbrev Config.exponentSeed : Nat := 134

/-- The formatter's precision where the field is zero (rules R7, R171). -/
abbrev Config.defaultPrecision : Nat := 2

/-- `DECIMAL_POINT`, default the ASCII code of `.` (rules R7, R178; decision D17). `fmtChars` takes it as an argument. -/
abbrev Config.decimalPoint : Byte := 0x2E#8

/-- How far `FXU_LATENCY(op)` exceeds 1. FREE VALUE: the spec leaves the latency OPEN (rules R7, R233; log entry 2: DESIGN CHOICE, safe). -/
opaque Config.fxuLatencyExcess : BitVec 3 → Nat

/-- `FXU_LATENCY(op)`: OPEN, at least 1 (rules R7, R233). -/
def Config.fxuLatency (op : BitVec 3) : Nat := Config.fxuLatencyExcess op + 1

/-- How many edges later than `FXU_LATENCY(op)` the completion comes. FREE VALUE, one for each draw: the spec fixes only
that the completion comes within a finite bound (rule R233; log entry 2: DESIGN CHOICE, safe). -/
opaque Config.completionSlack : Nat → Nat

/-- What a reset edge leaves in `CUR_CMD`. FREE VALUE, one for each draw (rules R31, R230; log entry 5: DESIGN CHOICE, safe). -/
opaque Config.curCmdAfterReset : Nat → Byte

/-- What a reset edge leaves in `CUR_A`. FREE VALUE, one for each draw (rules R31, R230; log entry 5: DESIGN CHOICE, safe). -/
opaque Config.curAAfterReset : Nat → Word

/-- What a reset edge leaves in `CUR_B`. FREE VALUE, one for each draw (rules R31, R230; log entry 5: DESIGN CHOICE, safe). -/
opaque Config.curBAfterReset : Nat → Word

/-- The bits every register holds at power-up, before the first reset. FREE VALUES (rule R231; log entry 6: DESIGN CHOICE, safe). -/
opaque Config.powerUpBits : Nat → Word

/-- `BUS_ATTACHMENT`: the address a platform maps a port to, if any. FREE VALUE: OPEN, and nothing in the block reads it,
because the block reaches no address (rules R7, R40; log entry 11: DESIGN CHOICE, safe). -/
opaque Config.busAttachment : Port → Option Nat

end Sys2Proof
end

