-- ==== Sys2Proof/Syntax.lean ====
section
/-! DEFINITION. The commands of the block, one constructor for each row of the opcode table, and the lines of a listing
as the spec's assembler reads them (rules R60 to R62, R68, R69). -/

namespace Sys2Proof

/-- A command: what an 8-bit command word selects (rule R62). Each carries the word's `PREC` field (rule R61), which only
`fmt` reads (rule R64); the operand words `A` and `B` of a request are not part of the command word, and reach the unit
through the registers `CUR_A` and `CUR_B` (rule R22). -/
inductive Instr where
  | adds (prec : Nat)
  | subs (prec : Nat)
  | mul (prec : Nat)
  | div (prec : Nat)
  | f2q (prec : Nat)
  | q2f (prec : Nat)
  | fmt (prec : Nat)
  deriving DecidableEq, Repr

/-- The command's `PREC` field. -/
def Instr.prec : Instr → Nat
  | .adds p | .subs p | .mul p | .div p | .f2q p | .q2f p | .fmt p => p

/-- A word operand as a listing writes it (rule R68): `0x` and hexadecimal digits, `#` and a decimal number (its whole
and its fraction digits), or `$k`, the `RESULT` of the listing's `k`-th request. Digits stand first to last. -/
inductive Arg where
  | hex (digits : List (Fin 16))
  | dec (negative : Bool) (whole frac : List (Fin 10))
  | res (k : Nat)
  deriving DecidableEq, Repr

/-- One line of a listing: the seven forms and `.req` of rule R68, and the pseudo-instructions of rule R69
(`fmtDefault` is the `FMT` with one operand). -/
inductive Line where
  | adds (a b : Arg)
  | subs (a b : Arg)
  | mul (a b : Arg)
  | div (a b : Arg)
  | f2q (f : Arg)
  | q2f (a : Arg)
  | fmt (a : Arg) (p : Nat)
  | req (cmd a b : List (Fin 16))
  | negs (a : Arg)
  | movq (a : Arg)
  | sqr (a : Arg)
  | recip (a : Arg)
  | fmtDefault (a : Arg)
  deriving DecidableEq, Repr

end Sys2Proof
end

