-- ==== Sys2Proof/WellFormed.lean ====
section
/-! DEFINITION. Which commands and which listings are well formed. Each check is refused by name in Tests/Slice0.lean. -/

namespace Sys2Proof

/-- A command is well formed when its precision fits the 3-bit `PREC` field (rule R61). -/
def Instr.wellFormed (i : Instr) : Bool := decide (i.prec < 8)

/-- The number a decimal operand's digits spell, first digit first. -/
def digitsValue (base : Nat) (digits : List Nat) : Nat := digits.foldl (fun n d => n * base + d) 0

/-- The operand of a listing's line number `k` (counted from 1) is well formed (rule R68): a hexadecimal literal has 1 to
8 digits; a decimal number `d` has a whole part and `d * 2^16` is an integer in `[-2^31, 2^31-1]`; `$j` names an
earlier request of the listing. The whole part and `earlier` are log entry 10: DESIGN CHOICE, safe. -/
def Arg.wellFormed (k : Nat) : Arg → Bool
  | .hex ds => decide (1 ≤ ds.length ∧ ds.length ≤ 8)
  | .dec neg whole frac =>
    let m := digitsValue 10 ((whole ++ frac).map Fin.val) * 2 ^ 16
    let d := 10 ^ frac.length
    decide (whole ≠ [] ∧ m % d = 0 ∧ m / d ≤ if neg then 2 ^ 31 else 2 ^ 31 - 1)
  | .res j => decide (1 ≤ j ∧ j < k)

/-- A raw word of `.req` has 1 to `n` hexadecimal digits (rule R68, which gives no digit count for it: `n` is 2 for the command
word and 8 for an operand by log entry 10: DESIGN CHOICE, safe). -/
def rawWellFormed (n : Nat) (ds : List (Fin 16)) : Bool := decide (1 ≤ ds.length ∧ ds.length ≤ n)

/-- Line number `k` of a listing is well formed: its operands are, and its precision is in 0..7 (rules R68, R69). -/
def Line.wellFormed (k : Nat) : Line → Bool
  | .adds a b | .subs a b | .mul a b | .div a b => a.wellFormed k && b.wellFormed k
  | .f2q a | .q2f a | .negs a | .movq a | .sqr a | .recip a | .fmtDefault a => a.wellFormed k
  | .fmt a p => a.wellFormed k && decide (p < 8)
  | .req c a b => rawWellFormed 2 c && rawWellFormed 8 a && rawWellFormed 8 b

/-- The lines of a listing, the first of them numbered `k`, are well formed. -/
def listingWellFormed (k : Nat) : List Line → Bool
  | [] => true
  | l :: rest => l.wellFormed k && listingWellFormed (k + 1) rest

end Sys2Proof
end

