-- ==== Sys2Proof/Decode.lean ====
section
/-! DEFINITION. The command word's decoder and encoder (rules R60 to R67) and the opcode table they are held against. -/

namespace Sys2Proof

/-- `OP = CMD[2:0]` (rule R61). -/
def cmdOp (w : Byte) : BitVec 3 := w.extractLsb' 0 3

/-- `PREC = CMD[5:3]` (rule R61). -/
def cmdPrec (w : Byte) : BitVec 3 := w.extractLsb' 3 3

/-- `RSV = CMD[7:6]` (rule R61). -/
def cmdRsv (w : Byte) : BitVec 2 := w.extractLsb' 6 2

/-- Why a command word is illegal (rule R65). Either raises IllegalCommand, code 7. -/
inductive IllegalCommand where
  /-- `RSV` is not `00`. -/
  | reservedBits
  /-- `OP` is `111`. -/
  | reservedOp
  deriving DecidableEq, Repr

/-- What the decoder reads from a command word. -/
inductive Decoded where
  | instr (i : Instr)
  | illegal (why : IllegalCommand)
  deriving DecidableEq, Repr

/-- The command read, if the word is legal. -/
def Decoded.toOption : Decoded → Option Instr
  | .instr i => some i
  | .illegal _ => none

/-- The decoder: total on the 256 command words (rules R62, R65, R67). -/
def decode (w : Byte) : Decoded :=
  if cmdRsv w ≠ 0 then .illegal .reservedBits
  else
    let p := (cmdPrec w).toNat
    match (cmdOp w).toNat with
    | 0 => .instr (.adds p)
    | 1 => .instr (.subs p)
    | 2 => .instr (.mul p)
    | 3 => .instr (.div p)
    | 4 => .instr (.f2q p)
    | 5 => .instr (.q2f p)
    | 6 => .instr (.fmt p)
    | _ => .illegal .reservedOp

/-- The command's `OP` number (rule R62). -/
def Instr.op : Instr → BitVec 3
  | .adds _ => 0
  | .subs _ => 1
  | .mul _ => 2
  | .div _ => 3
  | .f2q _ => 4
  | .q2f _ => 5
  | .fmt _ => 6

/-- Whether the command reads operand `B` (rules R62, R63). -/
def Instr.readsB : Instr → Bool
  | .adds _ | .subs _ | .mul _ | .div _ => true
  | .f2q _ | .q2f _ | .fmt _ => false

/-- The encoder: `RSV = 00`, `PREC` and `OP`, upper bits first (rule R61). A precision wider than the field is masked to
3 bits, as the spec's host does it (`PREC = p[2:0]`). -/
def encode (i : Instr) : Byte := (0#2 ++ BitVec.ofNat 3 i.prec ++ i.op : BitVec (2 + 3 + 3))

/-- A row of the opcode table: the words `w` with `w AND mask = pattern` are the row's. -/
structure TableRow where
  mnemonic : String
  pattern : Byte
  mask : Byte
  deriving DecidableEq, Repr

/-- The row owns the word. -/
def TableRow.owns (r : TableRow) (w : Byte) : Bool := w &&& r.mask == r.pattern

/-- spec/opcode_table.json, its match and mask columns. -/
def opcodeTable : List TableRow :=
  [⟨"ADDS", 0x00, 0xC7⟩, ⟨"SUBS", 0x01, 0xC7⟩, ⟨"MUL", 0x02, 0xC7⟩, ⟨"DIV", 0x03, 0xC7⟩,
   ⟨"F2Q", 0x04, 0xC7⟩, ⟨"Q2F", 0x05, 0xC7⟩, ⟨"FMT", 0x06, 0xC7⟩]

/-- The mnemonic of a command (rules R3, R62). -/
def Instr.mnemonic : Instr → String
  | .adds _ => "ADDS"
  | .subs _ => "SUBS"
  | .mul _ => "MUL"
  | .div _ => "DIV"
  | .f2q _ => "F2Q"
  | .q2f _ => "Q2F"
  | .fmt _ => "FMT"

/-- The command word a table word of `nbits` bits stands for: its low 8 bits, the bits from `nbits` up zero. -/
def tableCmd (nbits w : Nat) : Byte := BitVec.ofNat 8 (w % 2 ^ nbits)

/-- The instruction the decoder reads from a table word. -/
def decodeTableWord (nbits w : Nat) : Option Instr := (decode (tableCmd nbits w)).toOption

end Sys2Proof
end

