-- ==== Sys2Proof/Machine/State.lean ====
section
/-! DEFINITION. The state of the block (rule R21), the host's side of its ports as plain data, the reasons a step can stop,
and the state after reset (rules R31, R230). -/

namespace Sys2Proof.Machine

/-- The error kinds of rule R200 (the codes are `ErrKind.code` in Flags.lean). -/
inductive ErrKind where
  | infinity
  | nan
  | denormalized
  | outOfRange
  | divideByZero
  | invalidArgument
  | illegalCommand
  deriving DecidableEq, Repr

/-- The four response registers of rule R21: `RESULT`, `ERR`, `STR[0..15]` and `LEN`. -/
structure Response where
  result : Word
  err : BitVec 3
  str : Vector Byte 16
  len : BitVec 4
  deriving DecidableEq, Repr

/-- The levels on the block's input ports at one rising edge of `clk` (rule R20). -/
structure Pins where
  rst : Bool
  reqValid : Bool
  reqCmd : Byte
  reqA : Word
  reqB : Word
  deriving DecidableEq, Repr

/-- A response and the number of the request it answers, counting accepted requests from 1 (rules R68, R234). -/
structure NumberedResponse where
  request : Nat
  response : Response
  deriving DecidableEq, Repr

/-- An operand the host drives: a word, or `$k`, the `RESULT` of the `k`-th request (rule R68). -/
inductive HostOperand where
  | word (w : Word)
  | result (k : Nat)
  deriving DecidableEq, Repr

/-- What the host does at a rising edge (log entry 1: DESIGN CHOICE, safe). -/
inductive HostMove where
  /-- Drive these levels for exactly one edge. -/
  | drive (p : Pins)
  /-- Present a request and keep it on the ports until the edge that accepts it (rule R234, third hazard). -/
  | hold (cmd : Byte) (a b : HostOperand)
  /-- Leave the request port idle until `rsp_valid = 1`, then read the response (rule R234, fourth hazard). -/
  | await
  /-- Leave the request port idle for one edge and read the response, valid or not (rules R231, R234). -/
  | read
  deriving DecidableEq, Repr

/-- The state: the registers of rule R21, then the model's own fields (log entry 3: DESIGN CHOICE, safe). -/
structure State where
  /-- `RESULT`, `ERR`, `STR`, `LEN`. -/
  rsp : Response
  /-- `RSP_VALID`. -/
  rspValid : Bool
  /-- `BUSY`. -/
  busy : Bool
  /-- `CUR_CMD`. -/
  curCmd : Byte
  /-- `CUR_A`. -/
  curA : Word
  /-- `CUR_B`. -/
  curB : Word
  /-- The model's own: a reset edge has come since power-up (rule R231). -/
  wasReset : Bool
  /-- The model's own: how many edges pass before the edge that completes the captured request (rule R233). -/
  wait : Nat
  /-- The model's own: how many requests have been accepted; the last of them has this number (rules R68, R234). -/
  accepted : Nat
  /-- The model's own: how many free values have been drawn (log entry 2: DESIGN CHOICE, safe; log entry 5: DESIGN CHOICE, safe). -/
  draws : Nat
  /-- The model's own: what the host does at the coming edges, the next one first. -/
  script : List HostMove
  /-- The model's own: the responses the host's `await` and `read` moves have read, oldest first. -/
  seen : List Response
  /-- The model's own: the responses the host has found with `rsp_valid = 1`, one for each request, each under its request's
  number: what `$k` stands for (rules R68, R234; log entry 14: DESIGN CHOICE, safe). -/
  results : List NumberedResponse
  deriving DecidableEq, Repr

/-- Why a run stops. The block itself never faults (rule R204): each fault is a read by the host to which the spec gives
no value (decision D30). All are safe: the hardware goes on and the model stops. -/
inductive Fault where
  /-- Raised by `sample`: the host reads a response before the first reset edge (rule R231). Safe. -/
  | readBeforeReset
  /-- Raised by `sample`: the host reads a response while `RSP_VALID = 0` (rule R234). Safe. -/
  | staleRead
  /-- Raised by `sample`: the host reads the code 6, which no operation produces (rule R200; spec/93 row 11). Safe. -/
  | reservedErrorSeen
  /-- Raised by `resolve`: the host presents `$k` and `rsp_valid` has not been 1 for request `k` (rule R234). Safe. -/
  | resultNotReady
  deriving DecidableEq, Repr

/-- Why a step has no meaning. -/
inductive Refusal where
  /-- The instruction of this name has no meaning yet. Raised by `exec`'s arms only; no arm of this model raises it. Safe. -/
  | notModelled (mnemonic : String)
  deriving DecidableEq, Repr

/-- The response registers after reset (rules R21, R31). -/
def Response.cleared : Response :=
  { result := 0x00000000#32, err := 0#3, str := #v[0, 0, 0, 0, 0, 0, 0, 0, 0, 0, 0, 0, 0, 0, 0, 0], len := 0#4 }

/-- The state right after reset (rules R21, R31, R230). The spec leaves `CUR_CMD`, `CUR_A` and `CUR_B` unspecified: zero is
the model's choice (log entry 4: DESIGN CHOICE, unsafe). The host has nothing left to do and has read nothing (log entry 3: DESIGN CHOICE, safe). -/
def State.reset : State :=
  { rsp := Response.cleared, rspValid := false, busy := false
    curCmd := 0#8, curA := 0#32, curB := 0#32
    wasReset := true, wait := 0, accepted := 0, draws := 0, script := [], seen := [], results := [] }

/-- A state at power-up, before the first reset edge: every register is unspecified (rule R231; log entry 6: DESIGN CHOICE, safe). -/
def State.powerUp (script : List HostMove) : State :=
  let byte (n : Nat) : Byte := (Config.powerUpBits n).setWidth 8
  { rsp :=
      { result := Config.powerUpBits 0, err := (Config.powerUpBits 1).setWidth 3
        str := #v[byte 16, byte 17, byte 18, byte 19, byte 20, byte 21, byte 22, byte 23,
                  byte 24, byte 25, byte 26, byte 27, byte 28, byte 29, byte 30, byte 31]
        len := (Config.powerUpBits 2).setWidth 4 }
    rspValid := (Config.powerUpBits 3).getLsbD 0, busy := (Config.powerUpBits 4).getLsbD 0
    curCmd := byte 5, curA := Config.powerUpBits 6, curB := Config.powerUpBits 7
    wasReset := false, wait := (Config.powerUpBits 8).toNat, accepted := 0, draws := 0
    script := script, seen := [], results := [] }

end Sys2Proof.Machine
end

