-- ==== Sys2Proof/Machine/Operands.lean ====
section
/-! DEFINITION. How an operation reads its operands: the captured words, the binary32 fields and classes, the Q16.16 parts
and the precision (rules R2, R27, R29, R30, R63, R64, R171, R172). -/

namespace Sys2Proof.Machine

/-- Operand `A`, taken whole (rule R63). -/
def operandA (s : State) : Word := s.curA

/-- Operand `B`, taken whole; only `ADDS`, `SUBS`, `MUL` and `DIV` read it (rule R63). -/
def operandB (s : State) : Word := s.curB

/-- The sign bit `f[31]` of a binary32 pattern (rule R29; log entry 8: PRESUMED, unsafe). -/
def f32Sign (f : Word) : Bool := f.msb

/-- The biased exponent `f[30:23]` of a binary32 pattern (rule R29; log entry 8: PRESUMED, unsafe). -/
def f32Exp (f : Word) : Nat := (f.extractLsb' 23 8).toNat

/-- The mantissa `f[22:0]` of a binary32 pattern (rule R29; log entry 8: PRESUMED, unsafe). -/
def f32Mant (f : Word) : Nat := (f.extractLsb' 0 23).toNat

/-- The classes of rule R30. -/
inductive F32Class where
  | infinity
  | nan
  | zero
  | subnormal
  | normal
  deriving DecidableEq, Repr

/-- The condition column of rule R30's table. -/
def F32Class.holds (f : Word) : F32Class → Bool
  | .infinity => f32Exp f == 255 && f32Mant f == 0
  | .nan => f32Exp f == 255 && f32Mant f != 0
  | .zero => f.extractLsb' 0 31 == 0
  | .subnormal => f32Exp f == 0 && f32Mant f != 0
  | .normal => decide (1 ≤ f32Exp f ∧ f32Exp f ≤ 254)

/-- The `PREC` field a command carries, masked to 3 bits (rules R61, R64). -/
def precField (prec : Nat) : BitVec 3 := BitVec.ofNat 3 prec

/-- The precision `FMT` uses: the field, or 2 where the field is zero (rule R171). -/
def fmtPrecision (prec : BitVec 3) : Nat := if prec = 0 then Config.defaultPrecision else prec.toNat

/-- The integer part of the magnitude, `floor(mag / 2^16)` (rule R172). -/
def integerPart (a : Word) : Nat := magnitude a / 2 ^ Config.fractionalBits

/-- The fractional part of the magnitude, `mag mod 2^16` (rule R172). -/
def fractionPart (a : Word) : Nat := magnitude a % 2 ^ Config.fractionalBits

end Sys2Proof.Machine
end

