-- ==== Sys2Proof/Machine/Flags.lean ====
section
/-! DEFINITION. The status the block computes. It has no condition flag (rule R26): its only status is the error code
(rule R200), and the overflow tests below choose a saturated result and are reported nowhere (rules R100, R102). -/

namespace Sys2Proof.Machine

/-- The code of an error kind (rule R200; decision D5). -/
def ErrKind.code : ErrKind → BitVec 3
  | .infinity => 1
  | .nan => 2
  | .denormalized => 3
  | .outOfRange => 4
  | .divideByZero => 5
  | .invalidArgument => 6
  | .illegalCommand => 7

/-- `ERR = 0`, `NONE`: the request succeeded (rules R24, R200). -/
def errNone : BitVec 3 := 0

/-- `sign(w)` of rule R9. -/
def signBit (w : Word) : Bool := w.msb

/-- The 32-bit wraparound sum (rule R100). -/
def wrapAdd (a b : Word) : Word := u32 (s32 a + s32 b)

/-- The 32-bit wraparound difference (rule R102). -/
def wrapSub (a b : Word) : Word := u32 (s32 a - s32 b)

/-- The overflow test of a sum: equal operand signs and another sign of the wrapped sum (rule R100). -/
def addOverflows (a b : Word) : Bool := signBit a == signBit b && signBit (wrapAdd a b) != signBit a

/-- The overflow test of a difference: different operand signs and a wrapped difference whose sign is not `a`'s
(rule R102; conflict C1, decision D9). -/
def subOverflows (a b : Word) : Bool := signBit a != signBit b && signBit (wrapSub a b) != signBit a

/-- The extreme on `a`'s side (rules R100, R102). -/
def saturated (a : Word) : Word := if signBit a then int32Min else int32Max

end Sys2Proof.Machine
end

