-- ==== Sys2Proof/Machine/Ops.lean ====
section
/-! DEFINITION. The shared operations on the state: building a response, completing a request, raising an error, the edges
of the clock, the output ports and the host's side of the ports (rules R20 to R25, R42, R45, R67, R201, R230 to R234). -/

namespace Sys2Proof.Machine

/-! ### Responses -/

/-- The formatter's buffer: the characters from `STR[0]` on, then `0x00` (rules R25, R179). -/
def strOfChars (cs : List Byte) : Vector Byte 16 :=
  let c (i : Nat) : Byte := cs.getD i 0
  #v[c 0, c 1, c 2, c 3, c 4, c 5, c 6, c 7, c 8, c 9, c 10, c 11, c 12, c 13, c 14, c 15]

/-- A success whose result is a word: `STR` and `LEN` are cleared (rule R67, "otherwise"). -/
def Response.ofWord (y : Word) : Response :=
  { result := y, err := errNone, str := strOfChars [], len := 0 }

/-- A success whose result is a string: `RESULT` is zero (rule R67, "on OP = 0b110"). -/
def Response.ofChars (cs : List Byte) : Response :=
  { result := 0, err := errNone, str := strOfChars cs, len := BitVec.ofNat 4 cs.length }

/-- A failed request: the code, and every other response register cleared (rule R201). -/
def Response.ofError (e : ErrKind) : Response :=
  { result := 0, err := e.code, str := strOfChars [], len := 0 }

/-- The response of a unit that answers `ok(y)` or `err(E)` (rule R67). -/
def Response.ofUnit : Except ErrKind Word → Response
  | .ok y => Response.ofWord y
  | .error e => Response.ofError e

/-! ### Completing a request -/

/-- The completion of rule R22: the four response registers are written together, `BUSY <- 0`, `RSP_VALID <- 1`. -/
def complete (r : Response) (s : State) : State :=
  { s with rsp := r, busy := false, rspValid := true }

/-- A request completes with a word as its result. -/
def completeWord (y : Word) (s : State) : Host.Outcome State Fault Refusal := .next (complete (Response.ofWord y) s)

/-- A request completes with a string as its result. -/
def completeChars (cs : List Byte) (s : State) : Host.Outcome State Fault Refusal := .next (complete (Response.ofChars cs) s)

/-- `raise E()`: the block's whole way of taking an error. It is a completion like any other: nothing is saved, no mode
changes, and there is no return from it (rules R9, R201, R204, R206). -/
def raiseError (e : ErrKind) (s : State) : Host.Outcome State Fault Refusal := .next (complete (Response.ofError e) s)

/-- A request completes as its unit answers: with a word or with an error. -/
def completeUnit (r : Except ErrKind Word) (s : State) : Host.Outcome State Fault Refusal :=
  match r with
  | .ok y => completeWord y s
  | .error e => raiseError e s

/-! ### The other edges of the clock -/

/-- The reset edge (rule R230). The values it leaves in `CUR_CMD`, `CUR_A` and `CUR_B` are free (log entry 5: DESIGN CHOICE, safe). -/
def resetEdge (s : State) : State :=
  { s with
    rsp := Response.cleared, rspValid := false, busy := false
    curCmd := Config.curCmdAfterReset s.draws
    curA := Config.curAAfterReset s.draws
    curB := Config.curBAfterReset s.draws
    wasReset := true, wait := 0, draws := s.draws + 1 }

/-- How many edges pass between the edge that accepts a command and the edge that completes it: one less than
`FXU_LATENCY(op)`, and a free number more (rule R233; log entry 2: DESIGN CHOICE, safe). -/
def edgesToWait (cmd : Byte) (draw : Nat) : Nat := Config.fxuLatency (cmdOp cmd) - 1 + Config.completionSlack draw

/-- The accept edge (rules R22, R233): the request is captured whole; the response registers keep their values. -/
def acceptRequest (p : Pins) (s : State) : State :=
  { s with
    curCmd := p.reqCmd, curA := p.reqA, curB := p.reqB
    busy := true, rspValid := false
    wait := edgesToWait p.reqCmd s.draws, accepted := s.accepted + 1, draws := s.draws + 1 }

/-- An edge at which the captured request is not complete yet (rule R233). -/
def waitEdge (s : State) : State := { s with wait := s.wait - 1 }

/-- What the block does at a rising edge. -/
inductive EdgeKind where
  | reset
  | accept
  | wait
  | complete
  | idle
  deriving DecidableEq, Repr

/-- Which edge this is, from the input ports and the registers (rules R22, R230, R233). -/
def edgeKind (p : Pins) (s : State) : EdgeKind :=
  if p.rst then .reset
  else if s.busy then if s.wait = 0 then .complete else .wait
  else if p.reqValid then .accept
  else .idle

/-! ### The output ports -/

/-- The packing of `STR` into `rsp_str`: `STR[i]` on bits `8i+7:8i` (rules R20, R42). -/
def packStr (v : Vector Byte 16) : BitVec 128 :=
  v.toList.foldr (fun c acc => acc <<< 8 ||| c.setWidth 128) 0

/-- The levels on the block's output ports (rule R20). -/
structure OutPorts where
  reqReady : Bool
  rspValid : Bool
  rspResult : Word
  rspErr : BitVec 3
  rspStr : BitVec 128
  rspLen : BitVec 4
  deriving DecidableEq, Repr

/-- The output ports are functions of the registers: reading them changes nothing (rules R20, R45). -/
def outPorts (s : State) : OutPorts :=
  { reqReady := !s.busy, rspValid := s.rspValid, rspResult := s.rsp.result, rspErr := s.rsp.err
    rspStr := packStr s.rsp.str, rspLen := s.rsp.len }

/-- What a host's memory holds after it stores `rsp_str` little-endian from byte address `p` (rule R42). -/
def storeRspStr (p : Nat) (v : BitVec 128) : List Host.Cell :=
  (List.range 16).map fun i => (p + i, v.extractLsb' (8 * i) 8)

/-! ### The host's side of the ports -/

/-- The input ports where the host drives nothing. -/
def Pins.idle : Pins := { rst := false, reqValid := false, reqCmd := 0, reqA := 0, reqB := 0 }

/-- The input ports where the host presents a request. -/
def Pins.request (cmd : Byte) (a b : Word) : Pins := { rst := false, reqValid := true, reqCmd := cmd, reqA := a, reqB := b }

/-- What the host knows of a request's response once it has found it valid: the first time counts, and the response does
not change while it stays valid. -/
def noteResponse (n : Nat) (r : Response) (known : List NumberedResponse) : List NumberedResponse :=
  if known.any (fun c => c.request == n) then known else known ++ [⟨n, r⟩]

/-- The host samples `rsp_valid` at every edge (rule R205). While it is 1 the response registers belong to the last accepted
request (rule R234, first hazard). Before the first reset edge it has no value (rule R231; log entry 14: DESIGN CHOICE,
safe). -/
def observe (s : State) : State :=
  if s.wasReset && s.rspValid then { s with results := noteResponse s.accepted s.rsp s.results } else s

/-- The word the host drives for an operand: `$k` is the `RESULT` of request `k`, for which `rsp_valid` must have been 1
(rule R68; rule R234, fourth hazard). -/
def resolve (known : List NumberedResponse) : HostOperand → Except Fault Word
  | .word w => .ok w
  | .result k =>
    if k = 0 then .error .resultNotReady
    else
      match known.find? (fun c => c.request == k) with
      | some c => .ok c.response.result
      | none => .error .resultNotReady

/-- The host reads the response ports. A read before the first reset and a read while `RSP_VALID = 0` have no value
(rules R231, R234; decision D30), and the code 6 is never seen (rule R200). -/
def sample (s : State) : Except Fault Response :=
  if !s.wasReset then .error .readBeforeReset
  else if !s.rspValid then .error .staleRead
  else if s.rsp.err = ErrKind.invalidArgument.code then .error .reservedErrorSeen
  else .ok s.rsp

/-- The host has made its next move. -/
def popMove (s : State) : State := { s with script := s.script.tail }

/-- The host has made its next move, which read a response. -/
def collect (r : Response) (s : State) : State := { s with script := s.script.tail, seen := s.seen ++ [r] }

/-- The host's move at the coming edge: the levels it puts on the input ports, and the state with its script and what it
has read as they stand after the edge. It touches no register of the block (rule R45). -/
def hostMove (s : State) : Except Fault (Pins × State) :=
  match s.script with
  | [] => .ok (Pins.idle, s)
  | .drive p :: _ => .ok (p, popMove s)
  | .hold cmd a b :: _ =>
    match resolve s.results a, resolve s.results b with
    | .ok x, .ok y => .ok (Pins.request cmd x y, if s.busy then s else popMove s)
    | .error f, _ => .error f
    | _, .error f => .error f
  | .await :: _ =>
    if s.wasReset && !s.rspValid then .ok (Pins.idle, s)
    else
      match sample s with
      | .ok r => .ok (Pins.idle, collect r s)
      | .error f => .error f
  | .read :: _ =>
    match sample s with
    | .ok r => .ok (Pins.idle, collect r s)
    | .error f => .error f

/-- The host at a rising edge: it sees `rsp_valid` as it stands before the edge, and makes its move (log entry 1: DESIGN
CHOICE, safe). -/
def hostEdge (s : State) : Except Fault (Pins × State) := hostMove (observe s)

end Sys2Proof.Machine
end

