-- ==== Sys2Proof/Machine/AddSub.lean ====
section
/-! DEFINITION. `ADDS` and `SUBS`: the saturating adder and subtractor (rules R100 to R104). -/

namespace Sys2Proof.Machine

/-- The unit of `ADDS` (rule R100). -/
def addsWord (a b : Word) : Word := if addOverflows a b then saturated a else wrapAdd a b

/-- The unit of `SUBS` (rule R102). -/
def subsWord (a b : Word) : Word := if subOverflows a b then saturated a else wrapSub a b

/-- `ADDS`: `PREC` is ignored; it never fails and saturation is not reported (rules R26, R64, R100). -/
def execAdds (_prec : Nat) (s : State) : Host.Outcome State Fault Refusal :=
  completeWord (addsWord (operandA s) (operandB s)) s

/-- `SUBS`: `PREC` is ignored; it never fails and saturation is not reported (rules R26, R64, R102). -/
def execSubs (_prec : Nat) (s : State) : Host.Outcome State Fault Refusal :=
  completeWord (subsWord (operandA s) (operandB s)) s

/-- The standalone module `fixed_point_adder_sat(a, b) -> y` (rule R104). -/
def moduleAdderSat (a b : Word) : Word := addsWord a b

/-- The standalone module `fixed_point_subtractor_sat(a, b) -> y` (rule R104). -/
def moduleSubtractorSat (a b : Word) : Word := subsWord a b

end Sys2Proof.Machine
end

