-- ==== Sys2Proof/Machine/FloatBridge.lean ====
section
/-! DEFINITION. `F2Q` and `Q2F`: binary32 to Q16.16 and back (rules R140 to R155). -/

namespace Sys2Proof.Machine

/-- Step 7 of rule R140: the mantissa with its implicit leading 1, shifted right by `134 - e`, or left where that is
negative (rule R144). -/
def f2qMagnitude (e m : Nat) : Nat :=
  let full := 2 ^ 23 + m
  let sh : Int := (Config.exponentSeed : Int) - (e : Int)
  if 0 < sh then full / 2 ^ sh.toNat else full * 2 ^ (-sh).toNat

/-- The unit of `F2Q`, steps 2 to 7 of rule R140 in its order. `clampExp` is `DENORM_CLAMP_EXP` (rule R142). -/
def f2qWord (clampExp : Nat) (f : Word) : Except ErrKind Word :=
  let e := f32Exp f
  let m := f32Mant f
  if e = 255 ∧ m = 0 then .error .infinity
  else if e = 255 ∧ m ≠ 0 then .error .nan
  else if f.extractLsb' 0 31 = 0 then .ok 0
  else if e = 0 then .error .denormalized
  else if e < clampExp then .ok 0
  else if Config.outOfRangeExp ≤ e then .error .outOfRange
  else .ok (u32 (if f32Sign f then -(f2qMagnitude e m : Int) else (f2qMagnitude e m : Int)))

/-- The first loop of rule R150, "shift right while the value occupies bits >= 24", at most `fuel` times. -/
def halveTo24Bits : (fuel : Nat) → (mag e : Nat) → Nat × Nat
  | 0, mag, e => (mag, e)
  | k + 1, mag, e => if 2 ^ 24 ≤ mag then halveTo24Bits k (mag / 2) (e + 1) else (mag, e)

/-- The second loop of rule R150, "shift left while it occupies fewer than 24 bits", at most `fuel` times. -/
def doubleTo24Bits : (fuel : Nat) → (mag e : Nat) → Nat × Nat
  | 0, mag, e => (mag, e)
  | k + 1, mag, e => if mag < 2 ^ 23 then doubleTo24Bits k (mag * 2) (e - 1) else (mag, e)

/-- Both loops of rule R150 from the seed 134: a magnitude of at most `2^31` is halved at most 8 times, and one of at least
1 is doubled at most 23 times. -/
def normalizeTo24Bits (mag : Nat) : Nat × Nat :=
  let h := halveTo24Bits 8 mag Config.exponentSeed
  doubleTo24Bits 23 h.1 h.2

/-- `{sgn, e[7:0], mag[22:0]}` of rule R150: a binary32 pattern from its fields (rule R29). -/
def packF32 (sgn : Bool) (e mag : Nat) : Word :=
  (BitVec.ofBool sgn ++ BitVec.ofNat 8 e ++ BitVec.ofNat 23 mag : BitVec (1 + 8 + 23))

/-- The unit of `Q2F` (rule R150). -/
def q2fWord (a : Word) : Word :=
  if s32 a = 0 then 0
  else
    let n := normalizeTo24Bits (magnitude a)
    packF32 (decide (s32 a < 0)) n.2 n.1

/-- `F2Q`: `B` and `PREC` are ignored (rules R63, R64, R140). -/
def execF2q (_prec : Nat) (s : State) : Host.Outcome State Fault Refusal :=
  completeUnit (f2qWord Config.denormClampExp (operandA s)) s

/-- `Q2F`: `B` and `PREC` are ignored; it never fails (rules R63, R64, R150). -/
def execQ2f (_prec : Nat) (s : State) : Host.Outcome State Fault Refusal :=
  completeWord (q2fWord (operandA s)) s

/-- The standalone module `ieee754_to_q16_16_converter(f) -> (y, err)` (rule R147). -/
def moduleF2q (f : Word) : Word × BitVec 3 :=
  match f2qWord Config.denormClampExp f with
  | .ok y => (y, errNone)
  | .error e => (0, e.code)

/-- The standalone module `q16_16_to_ieee754_converter(x) -> f` (rule R155). -/
def moduleQ2f (x : Word) : Word := q2fWord x

end Sys2Proof.Machine
end

