-- ==== Sys2Proof/Machine/Formatter.lean ====
section
/-! DEFINITION. `FMT`: the decimal formatter (rules R170 to R184). -/

namespace Sys2Proof.Machine

/-- The ASCII code of a decimal digit (rule R179; log entry 8: PRESUMED, unsafe). -/
def digitChar (d : Nat) : Byte := BitVec.ofNat 8 (0x30 + d)

/-- The ASCII code of `-` (rule R179; log entry 8: PRESUMED, unsafe). -/
def minusChar : Byte := 0x2D#8

/-- The decimal digits of a number, at most `fuel` of them, first digit first; `0` is one digit (rule R177). -/
def decDigits : (fuel n : Nat) → List Nat
  | 0, _ => []
  | k + 1, n => if n < 10 then [n] else decDigits k (n / 10) ++ [n % 10]

/-- `dec(n)` of rule R170: the numeral with no leading zeros (a number `n` has at most `n + 1` digits). -/
def decNumeral (n : Nat) : List Byte := (decDigits (n + 1) n).map digitChar

/-- `dec_p(f, p)` of rule R170: the numeral padded on the left with `0` to `p` characters (rule R173). -/
def decPadded (f p : Nat) : List Byte :=
  List.replicate (p - (decNumeral f).length) (digitChar 0) ++ decNumeral f

/-- The fraction scaled to `p + 1` digits, `floor(fr * 10^(p+1) / 2^16)` (rule R173). -/
def fmtScaled (fr p : Nat) : Nat := fr * 10 ^ (p + 1) / 2 ^ 16

/-- Half-up rounding on the guard digit, which is then dropped (rule R174). -/
def fmtRounded (g : Nat) : Nat := (if 5 ≤ g % 10 then g + 10 else g) / 10

/-- The integer part and the fraction after a carry out of the fraction (rule R175; decision D18). -/
def fmtCarry (ip f p : Nat) : Nat × Nat := if f = 10 ^ p then (ip + 1, 0) else (ip, f)

/-- Trailing zero digits of the fraction are stripped, each lowering the precision by one (rule R176): the fraction and the
precision that are left. -/
def fmtStrip : (f p : Nat) → Nat × Nat
  | f, 0 => (f, 0)
  | f, p + 1 => if f % 10 = 0 then fmtStrip (f / 10) p else (f, p + 1)

/-- The printed number before its sign: the integer part, and the fraction with its digit count (rules R173 to R176). -/
def fmtDigits (a : Word) (prec : BitVec 3) : Nat × Nat × Nat :=
  let p := fmtPrecision prec
  let c := fmtCarry (integerPart a) (fmtRounded (fmtScaled (fractionPart a) p)) p
  (c.1, fmtStrip c.2 p)

/-- The unit of `FMT`: the string, first character first (rules R170, R172, R178). `point` is `DECIMAL_POINT`. -/
def fmtChars (point : Byte) (a : Word) (prec : BitVec 3) : List Byte :=
  let d := fmtDigits a prec
  (if s32 a < 0 then [minusChar] else []) ++ decNumeral d.1 ++
    (if 0 < d.2.2 then point :: decPadded d.2.1 d.2.2 else [])

/-- `FMT`: `B` is ignored; it never fails (rules R63, R170, R180). -/
def execFmt (prec : Nat) (s : State) : Host.Outcome State Fault Refusal :=
  completeChars (fmtChars Config.decimalPoint (operandA s) (precField prec)) s

/-- The standalone module `q16_16_decimal_formatter(x, prec) -> (str, len)` (rule R181). -/
def moduleFormatter (x : Word) (prec : BitVec 3) : BitVec 128 × BitVec 4 :=
  let cs := fmtChars Config.decimalPoint x prec
  (packStr (strOfChars cs), BitVec.ofNat 4 cs.length)

end Sys2Proof.Machine
end

