-- ==== Sys2Proof/Machine/MulDiv.lean ====
section
/-! DEFINITION. `MUL` and `DIV` (rules R120 to R127). -/

namespace Sys2Proof.Machine

/-- `n >> k` of rule R9 on a signed integer: the arithmetic shift, `floor(n / 2^k)`. -/
def shiftRightInt (n : Int) (k : Nat) : Int := n.fdiv (2 ^ k)

/-- The unit of `MUL`: the exact product, floored and narrowed to its low 32 bits (rules R120 to R122). -/
def mulWord (a b : Word) : Word := u32 (shiftRightInt (s32 a * s32 b) Config.fractionalBits)

/-- `tdiv(n, d)` of rule R9: division truncated toward zero. -/
def truncDiv (n d : Int) : Int := n.tdiv d

/-- The unit of `DIV`: DivideByZero on a zero divisor, whatever the dividend; else the quotient truncated toward zero and
narrowed to its low 32 bits (rules R123 to R125). -/
def divWord (a b : Word) : Except ErrKind Word :=
  if b = 0 then .error .divideByZero
  else .ok (u32 (truncDiv (s32 a * 2 ^ Config.fractionalBits) (s32 b)))

/-- `MUL`: `PREC` is ignored; it never fails (rules R64, R120). -/
def execMul (_prec : Nat) (s : State) : Host.Outcome State Fault Refusal :=
  completeWord (mulWord (operandA s) (operandB s)) s

/-- `DIV`: `PREC` is ignored (rules R64, R123). -/
def execDiv (_prec : Nat) (s : State) : Host.Outcome State Fault Refusal :=
  completeUnit (divWord (operandA s) (operandB s)) s

/-- The standalone module `fixed_point_multiplier_q16_16(a, b) -> y` (rule R126). -/
def moduleMultiplier (a b : Word) : Word := mulWord a b

/-- The standalone module `fixed_point_divider(a, b) -> (y, div_by_zero)` (rule R126). -/
def moduleDivider (a b : Word) : Word × Bool :=
  match divWord a b with
  | .ok y => (y, false)
  | .error _ => (0, true)

end Sys2Proof.Machine
end

