-- ==== Sys2Proof/Machine/Dispatch.lean ====
section
/-! DEFINITION. One arm for each command: its own meaning. -/

namespace Sys2Proof.Machine

/-- What a command does at the edge that completes its request (rules R22, R67). -/
def exec (i : Instr) (s : State) : Host.Outcome State Fault Refusal :=
  match i with
  | .adds prec => Sys2Proof.Machine.execAdds prec s
  | .subs prec => Sys2Proof.Machine.execSubs prec s
  | .mul prec => Sys2Proof.Machine.execMul prec s
  | .div prec => Sys2Proof.Machine.execDiv prec s
  | .f2q prec => Sys2Proof.Machine.execF2q prec s
  | .q2f prec => Sys2Proof.Machine.execQ2f prec s
  | .fmt prec => Sys2Proof.Machine.execFmt prec s

end Sys2Proof.Machine
end

