-- ==== Sys2Proof/Machine/Step.lean ====
section
/-! DEFINITION. One step of the machine: one rising edge of `clk` (rules R20, R22, R230, R233). -/

namespace Sys2Proof.Machine

/-- One rising edge: the host makes its move, and the block resets, accepts, waits, completes or idles. A completion runs
the captured command; an illegal command word raises IllegalCommand and no operation runs (rules R65, R67, R203). -/
def step (s : State) : Host.Outcome State Fault Refusal :=
  match hostEdge s with
  | .error f => .fault f
  | .ok (p, h) =>
    match edgeKind p s with
    | .reset => .next (resetEdge h)
    | .accept => .next (acceptRequest p h)
    | .wait => .next (waitEdge h)
    | .idle => .next h
    | .complete =>
      match decode s.curCmd with
      | .instr i => exec i h
      | .illegal _ => raiseError .illegalCommand h

/-- The state in which the command of a table word has just been captured and is due: the next step completes it. The
host drives nothing at that edge, and `CUR_A` and `CUR_B` keep their words (log entry 7: DESIGN CHOICE, safe). -/
def State.withFetchWord (s : State) (nbits w : Nat) : State :=
  { s with
    curCmd := tableCmd nbits w, busy := true, rspValid := false, wait := 0, accepted := s.accepted + 1
    script := .drive Pins.idle :: s.script }

end Sys2Proof.Machine
end

