-- ==== Sys2Proof/Machine/Execute.lean ====
section
/-! DEFINITION. The spec's `Execute` (rule R67), written from its pseudocode over the bit fields of the command word. The
machine itself decodes and dispatches; that the two agree is a statement of its own. -/

namespace Sys2Proof.Machine

/-- `Execute(CMD, A, B)` of rule R67: the whole response to a request. -/
def execute (cmd : Byte) (a b : Word) : Response :=
  if cmdRsv cmd ≠ 0b00#2 ∨ cmdOp cmd = 0b111#3 then Response.ofError .illegalCommand
  else if cmdOp cmd = 0b000#3 then Response.ofWord (addsWord a b)
  else if cmdOp cmd = 0b001#3 then Response.ofWord (subsWord a b)
  else if cmdOp cmd = 0b010#3 then Response.ofWord (mulWord a b)
  else if cmdOp cmd = 0b011#3 then Response.ofUnit (divWord a b)
  else if cmdOp cmd = 0b100#3 then Response.ofUnit (f2qWord Config.denormClampExp a)
  else if cmdOp cmd = 0b101#3 then Response.ofWord (q2fWord a)
  else Response.ofChars (fmtChars Config.decimalPoint a (cmdPrec cmd))

end Sys2Proof.Machine
end

