-- ==== Sys2Proof/Machine/Assembler.lean ====
section
/-! DEFINITION. The assembler of rules R68 and R69, which has no hardware meaning (decision D26), and the host that runs its
listings request by request (rule R234, fourth hazard). -/

namespace Sys2Proof.Machine

/-! ### From lines to requests -/

/-- A hexadecimal literal, zero-extended to 32 bits (rule R68). -/
def hexWord (ds : List (Fin 16)) : Word := BitVec.ofNat 32 (digitsValue 16 (ds.map Fin.val))

/-- The numerator of `d * 2^16` for a decimal number with these digits, over the denominator `10^(fraction digits)`. -/
def decNumerator (whole frac : List (Fin 10)) : Nat :=
  digitsValue 10 ((whole ++ frac).map Fin.val) * 2 ^ Config.fractionalBits

/-- The raw word `u32(d * 2^16)` of a decimal number `d`; none where `d * 2^16` is not an integer in `[-2^31, 2^31-1]`
(rule R68), and none without a whole part (log entry 10: DESIGN CHOICE, safe). -/
def decWord (negative : Bool) (whole frac : List (Fin 10)) : Option Word :=
  let n := decNumerator whole frac
  let d := 10 ^ frac.length
  let q := n / d
  if whole ≠ [] ∧ n % d = 0 ∧ q ≤ (if negative then 0x80000000 else 0x7FFFFFFF) then
    some (u32 (if negative then -(q : Int) else (q : Int)))
  else none

/-- What line number `k` of a listing drives for an operand (rule R68). That `$j` names an earlier request is log entry 10:
DESIGN CHOICE, safe. -/
def argOperand (k : Nat) : Arg → Option HostOperand
  | .hex ds => if 1 ≤ ds.length ∧ ds.length ≤ 8 then some (.word (hexWord ds)) else none
  | .dec neg whole frac => (decWord neg whole frac).map .word
  | .res j => if 1 ≤ j ∧ j < k then some (.result j) else none

/-- A raw word of `.req` with at most `n` hexadecimal digits (rule R68, which gives no digit count for it: 1 to 2 digits of a
command word and 1 to 8 of an operand, leading zeros counted, is log entry 10: DESIGN CHOICE, safe). -/
def rawWord (n : Nat) (ds : List (Fin 16)) : Option Word :=
  if 1 ≤ ds.length ∧ ds.length ≤ n then some (hexWord ds) else none

/-- A request as the host will present it (rule R60). -/
structure HostRequest where
  cmd : Byte
  a : HostOperand
  b : HostOperand
  deriving DecidableEq, Repr

/-- A request with two operands. -/
def request2 (k : Nat) (cmd : Byte) (a b : Arg) : Option HostRequest :=
  match argOperand k a, argOperand k b with
  | some x, some y => some ⟨cmd, x, y⟩
  | _, _ => none

/-- A request with one operand: `B = 0x00000000` (rule R68). -/
def request1 (k : Nat) (cmd : Byte) (a : Arg) : Option HostRequest :=
  (argOperand k a).map fun x => ⟨cmd, x, .word 0⟩

/-- The zero operand and `ONE`, as the expansions of rule R69 write them. -/
def argZero : Arg := .hex [0, 0, 0, 0, 0, 0, 0, 0]

/-- `0x00010000`, as the expansion of `RECIP` writes it (rule R69). -/
def argOne : Arg := .hex [0, 0, 0, 1, 0, 0, 0, 0]

/-- The request that line number `k` of a listing encodes (rules R68, R69). -/
def lineRequest (k : Nat) : Line → Option HostRequest
  | .adds a b => request2 k 0x00 a b
  | .subs a b => request2 k 0x01 a b
  | .mul a b => request2 k 0x02 a b
  | .div a b => request2 k 0x03 a b
  | .f2q f => request1 k 0x04 f
  | .q2f a => request1 k 0x05 a
  | .fmt a p => if p < 8 then request1 k (0x06#8 ||| BitVec.ofNat 8 p <<< 3) a else none
  | .req c a b =>
    match rawWord 2 c, rawWord 8 a, rawWord 8 b with
    | some x, some y, some z => some ⟨x.setWidth 8, .word y, .word z⟩
    | _, _, _ => none
  | .negs a => request2 k 0x01 argZero a
  | .movq a => request2 k 0x00 a argZero
  | .sqr a => request2 k 0x02 a a
  | .recip a => request2 k 0x03 argOne a
  | .fmtDefault a => request1 k 0x06 a

/-- The requests of a listing whose first line is numbered `k`. -/
def assemble (k : Nat) : List Line → Option (List HostRequest)
  | [] => some []
  | l :: rest =>
    match lineRequest k l, assemble (k + 1) rest with
    | some r, some rs => some (r :: rs)
    | _, _ => none

/-! ### Running a listing -/

/-- The host's moves for a listing: it presents each request, and waits for its response before the next (rule R234). -/
def listingScript : List HostRequest → List HostMove
  | [] => []
  | r :: rest => .hold r.cmd r.a r.b :: .await :: listingScript rest

/-- The word of an operand in a listing, where `done` are the responses to its requests so far: `$k` is the `RESULT` of the
listing's `k`-th request (rule R68). -/
def listingWord (done : List Response) : HostOperand → Option Word
  | .word w => some w
  | .result 0 => none
  | .result (k + 1) => (done[k]?).map Response.result

/-- The responses to a listing's requests, by the spec's `Execute` alone: `done` are those of the requests before. None where
an operand `$k` names a request that is not before its own. -/
def listingResponses (done : List Response) : List HostRequest → Option (List Response)
  | [] => some done
  | r :: rest =>
    match listingWord done r.a, listingWord done r.b with
    | some x, some y => listingResponses (done ++ [execute r.cmd x y]) rest
    | _, _ => none

/-! ### From text to lines (log entry 10: DESIGN CHOICE, safe) -/

/-- The text split at every `sep`. -/
def splitText (sep : Char) : List Char → List (List Char)
  | [] => [[]]
  | c :: cs =>
    match splitText sep cs with
    | [] => [[]]
    | w :: ws => if c = sep then [] :: w :: ws else (c :: w) :: ws

/-- The text without its leading and trailing spaces. -/
def trimText (cs : List Char) : List Char :=
  ((cs.dropWhile (· == ' ')).reverse.dropWhile (· == ' ')).reverse

/-- A decimal digit. -/
def decDigit (c : Char) : Option (Fin 10) :=
  let n := c.toNat
  if 48 ≤ n ∧ n ≤ 57 then some (Fin.ofNat 10 (n - 48)) else none

/-- A hexadecimal digit, of either case. -/
def hexDigit (c : Char) : Option (Fin 16) :=
  let n := c.toNat
  if 48 ≤ n ∧ n ≤ 57 then some (Fin.ofNat 16 (n - 48))
  else if 65 ≤ n ∧ n ≤ 70 then some (Fin.ofNat 16 (n - 55))
  else if 97 ≤ n ∧ n ≤ 102 then some (Fin.ofNat 16 (n - 87))
  else none

/-- All the characters read by `f`, none where one is not. -/
def readAll {α : Type} (f : Char → Option α) : List Char → Option (List α)
  | [] => some []
  | c :: cs =>
    match f c, readAll f cs with
    | some x, some xs => some (x :: xs)
    | _, _ => none

/-- `0x` and hexadecimal digits. -/
def readHex : List Char → Option (List (Fin 16))
  | '0' :: 'x' :: ds => readAll hexDigit ds
  | _ => none

/-- A natural number in decimal digits, at least one. -/
def readNat (cs : List Char) : Option Nat :=
  match readAll decDigit cs with
  | some (d :: ds) => some (digitsValue 10 ((d :: ds).map Fin.val))
  | _ => none

/-- A decimal number's digits, with a point or without. -/
def readDec (negative : Bool) (cs : List Char) : Option Arg :=
  match splitText '.' cs with
  | [w] => (readAll decDigit w).map fun x => .dec negative x []
  | [w, f] =>
    match readAll decDigit w, readAll decDigit f with
    | some x, some (y :: ys) => some (.dec negative x (y :: ys))
    | _, _ => none
  | _ => none

/-- A word operand (rule R68). -/
def readArg (cs : List Char) : Option Arg :=
  match cs with
  | '#' :: '-' :: ds => readDec true ds
  | '#' :: ds => readDec false ds
  | '$' :: ds => (readNat ds).map .res
  | _ => (readHex cs).map .hex

/-- A line with one word operand. -/
def readLine1 (f : Arg → Line) (args : List (List Char)) : Option Line :=
  match args with
  | [a] => (readArg a).map f
  | _ => none

/-- A line with two word operands. -/
def readLine2 (f : Arg → Arg → Line) (args : List (List Char)) : Option Line :=
  match args with
  | [a, b] =>
    match readArg a, readArg b with
    | some x, some y => some (f x y)
    | _, _ => none
  | _ => none

/-- `FMT a, p`, or the pseudo-instruction `FMT a`. -/
def readFmt (args : List (List Char)) : Option Line :=
  match args with
  | [a] => (readArg a).map .fmtDefault
  | [a, p] =>
    match readArg a, readNat p with
    | some x, some n => some (.fmt x n)
    | _, _ => none
  | _ => none

/-- `.req CMD, A, B`. -/
def readReq (args : List (List Char)) : Option Line :=
  match args with
  | [c, a, b] =>
    match readHex c, readHex a, readHex b with
    | some x, some y, some z => some (.req x y z)
    | _, _, _ => none
  | _ => none

/-- One line of text, `MNEMONIC operand, operand`, with or without a comment after `;` (rules R68, R69; log entry 10: DESIGN CHOICE, safe). -/
def readLine (cs : List Char) : Option Line :=
  let code := trimText (cs.takeWhile (· != ';'))
  let mnemonic := code.takeWhile (· != ' ')
  let args := (splitText ',' (code.dropWhile (· != ' '))).map trimText
  match mnemonic with
  | ['A', 'D', 'D', 'S'] => readLine2 .adds args
  | ['S', 'U', 'B', 'S'] => readLine2 .subs args
  | ['M', 'U', 'L'] => readLine2 .mul args
  | ['D', 'I', 'V'] => readLine2 .div args
  | ['F', '2', 'Q'] => readLine1 .f2q args
  | ['Q', '2', 'F'] => readLine1 .q2f args
  | ['F', 'M', 'T'] => readFmt args
  | ['.', 'r', 'e', 'q'] => readReq args
  | ['N', 'E', 'G', 'S'] => readLine1 .negs args
  | ['M', 'O', 'V', 'Q'] => readLine1 .movq args
  | ['S', 'Q', 'R'] => readLine1 .sqr args
  | ['R', 'E', 'C', 'I', 'P'] => readLine1 .recip args
  | _ => none

end Sys2Proof.Machine
end

