-- ==== Sys2Proof/Safety.lean ====
section
/-! DEFINITION. The terms the claims use: what an answer is, what a completion leaves alone, the invariant, a safe run, a
host that never reads what has no value, and how a decimal string is read back. -/

namespace Sys2Proof.Machine

/-! ### Answers -/

/-- The request has completed: `BUSY = 0` and `RSP_VALID = 1` (rule R22). -/
def Completed (t : State) : Prop := t.busy = false ∧ t.rspValid = true

/-- `STR` and `LEN` are cleared (rule R25). -/
def NoString (t : State) : Prop := t.rsp.len = 0 ∧ ∀ i : Fin 16, t.rsp.str[i] = 0

/-- The request succeeded with a word (rule R67, "otherwise"). -/
def AnswersWord (t : State) (y : Word) : Prop :=
  Completed t ∧ t.rsp.result = y ∧ t.rsp.err = 0 ∧ NoString t

/-- The request failed with a code (rule R201). -/
def AnswersError (t : State) (code : BitVec 3) : Prop :=
  Completed t ∧ t.rsp.result = 0 ∧ t.rsp.err = code ∧ NoString t

/-- The request succeeded with a string (rules R25, R67). -/
def AnswersString (t : State) (cs : List Byte) : Prop :=
  Completed t ∧ t.rsp.result = 0 ∧ t.rsp.err = 0 ∧ t.rsp.len.toNat = cs.length ∧
    ∀ i : Fin 16, t.rsp.str[i] = cs.getD i 0

/-- Everything a completion leaves alone: the captured request and the model's own fields. -/
def KeepsRest (s t : State) : Prop :=
  t.curCmd = s.curCmd ∧ t.curA = s.curA ∧ t.curB = s.curB ∧ t.wasReset = s.wasReset ∧ t.wait = s.wait ∧
    t.accepted = s.accepted ∧ t.draws = s.draws ∧ t.script = s.script ∧ t.seen = s.seen ∧ t.results = s.results

/-- The characters a response holds: `STR[0]` to `STR[LEN-1]` (rule R25). -/
def responseChars (r : Response) : List Byte := r.str.toList.take r.len.toNat

/-! ### The invariant -/

/-- What every response the block gives keeps: the code 6 is never produced (rule R200); `LEN` is at most 14 and the bytes
from `LEN` on are zero (rules R25, R182); `RESULT` is zero after an error and after `FMT`, and an error leaves no string
(rules R23, R25, R201). -/
def Response.Inv (r : Response) : Prop :=
  r.err ≠ 6 ∧ r.len.toNat ≤ 14 ∧ (∀ i : Fin 16, r.len.toNat ≤ i.val → r.str[i] = 0) ∧
    (r.err ≠ 0 → r.result = 0 ∧ r.len = 0) ∧ (r.len ≠ 0 → r.result = 0)

/-- What the host knows of the requests is right (rule R234): the numbers rise, so that `$k` names one response; none is
past the last accepted request; a request in flight is not among them; and while a response is valid, the one known for
the last accepted request is that one. -/
def State.ResultsInv (s : State) : Prop :=
  s.results.Pairwise (fun c d => c.request < d.request) ∧
    (∀ c ∈ s.results, c.response.Inv ∧ c.request ≤ s.accepted) ∧
    (s.busy = true → ∀ c ∈ s.results, c.request < s.accepted) ∧
    (s.rspValid = true → ∀ c ∈ s.results, c.request = s.accepted → c.response = s.rsp)

/-- The invariant: the response registers and every response the host has read keep `Response.Inv`, `BUSY` and `RSP_VALID`
are never both 1 (rule R234, first hazard), and what the host knows of the requests is right. -/
def State.Inv (s : State) : Prop :=
  s.rsp.Inv ∧ (s.busy = true → s.rspValid = false) ∧ (∀ r ∈ s.seen, r.Inv) ∧ s.ResultsInv

/-! ### Safe runs -/

/-- The step answers a next state. -/
def SafeStep (s : State) : Prop := ∃ t, step s = .next t

/-- The first `k` steps all answer a next state. -/
def SafeRun (k : Nat) (s : State) : Prop := ∃ t, core.run k s = .next t

/-- An operand that needs no earlier response. -/
def HostOperand.isWord : HostOperand → Bool
  | .word _ => true
  | .result _ => false

/-- A move that leaves a captured request alone and reads nothing: no reset, and no operand `$k`. -/
def HostMove.quiet : HostMove → Bool
  | .drive p => !p.rst
  | .hold _ a b => a.isWord && b.isWord
  | .await => false
  | .read => false

/-- A move of a host that respects rule R234: it may reset, it drives words, and it waits for `rsp_valid` before it reads. -/
def HostMove.respectful : HostMove → Bool
  | .drive _ => true
  | .hold _ a b => a.isWord && b.isWord
  | .await => true
  | .read => false

/-- The state with the captured request blanked: what is left when `CUR_CMD`, `CUR_A` and `CUR_B` are not looked at. -/
def eraseCaptured (s : State) : State := { s with curCmd := 0, curA := 0, curB := 0 }

/-! ### Reading a decimal string back -/

/-- The value of a decimal digit character (rule R179). -/
def charDigit (c : Byte) : Option Nat := if 0x30 ≤ c.toNat ∧ c.toNat ≤ 0x39 then some (c.toNat - 0x30) else none

/-- The number a string of digit characters spells, from an accumulated prefix; none where a character is no digit. -/
def charsValue (acc : Nat) : List Byte → Option Nat
  | [] => some acc
  | c :: cs =>
    match charDigit c with
    | some d => charsValue (acc * 10 + d) cs
    | none => none

/-- A decimal numeral read back: its sign, the number its digits spell without the point, and how many digits follow the
point. It stands for `± number / 10^places`. -/
structure Reading where
  negative : Bool
  number : Nat
  places : Nat
  deriving DecidableEq, Repr

/-- The string with its leading `-`, if any, taken off. -/
def unsignedChars : List Byte → List Byte
  | [] => []
  | c :: cs => if c = minusChar then cs else c :: cs

/-- A string read as rule R178 writes one: an optional `-`, digits, and an optional point with digits after it. -/
def readDecimal (point : Byte) (cs : List Byte) : Option Reading :=
  let body := unsignedChars cs
  let whole := body.takeWhile (· != point)
  let frac := (body.dropWhile (· != point)).drop 1
  match charsValue 0 (whole ++ frac) with
  | some n => if whole = [] then none else some ⟨decide (cs.head? = some minusChar), n, frac.length⟩
  | none => none

end Sys2Proof.Machine
end

