-- ==== Sys2Proof/Certificates/Slice0/Obligations.lean ====
section
/-! DEFINITION. The statements for the provers. Each docstring names the rules of spec/ it formalises. -/

open Sys2Proof Sys2Proof.Machine

/-! ### Encoding -/

/-- Rules R61, R62: no field of a well-formed command is lost by encoding it. -/
def Obligations.DecodeOfEncode : Prop :=
  ∀ i : Instr, i.wellFormed = true → decode (encode i) = .instr i

/-- Rules R60, R61: a legal command word is the encoding of the well-formed command it decodes to. -/
def Obligations.EncodeOfDecode : Prop :=
  ∀ (w : Byte) (i : Instr), decode w = .instr i → i.wellFormed = true ∧ encode i = w

/-- Rules R62, R64: words written out from the encodings, each decoded to the command it stands for. -/
def Obligations.SampleWordsDecode : Prop :=
  decode 0b00000000#8 = .instr (.adds 0) ∧ decode 0b00111000#8 = .instr (.adds 7) ∧
  decode 0b00000001#8 = .instr (.subs 0) ∧ decode 0b00010010#8 = .instr (.mul 2) ∧
  decode 0b00000011#8 = .instr (.div 0) ∧ decode 0b00100100#8 = .instr (.f2q 4) ∧
  decode 0b00000101#8 = .instr (.q2f 0) ∧ decode 0b00001110#8 = .instr (.fmt 1) ∧
  decode 0b00000111#8 = .illegal .reservedOp ∧ decode 0b01000000#8 = .illegal .reservedBits

/-- opcode_table.json: a word decodes to a command of a row's mnemonic exactly when the row's mask and match own it. -/
def Obligations.DecoderFollowsOpcodeTable : Prop :=
  ∀ r ∈ opcodeTable, ∀ w : Byte, r.owns w = true ↔ (decode w).toOption.map Instr.mnemonic = some r.mnemonic

/-- Rule R65: 56 command words are legal and 200 are not; an illegal one, at the edge that completes it, reports code 7 with
the other response registers cleared, whatever the operands, and the block is then ready for a request. -/
def Obligations.IllegalCommandReportsCode7 : Prop :=
  (∀ w : Byte, (∃ i, decode w = .instr i) ↔ ¬(cmdOp w = 0b111#3 ∨ cmdRsv w ≠ 0b00#2)) ∧
  ((List.range 256).filter fun n => (decode (BitVec.ofNat 8 n)).toOption.isSome).length = 56 ∧
  ((List.range 256).filter fun n => (decode (BitVec.ofNat 8 n)).toOption.isNone).length = 200 ∧
  ∀ (s h : State) (p : Pins), hostEdge s = .ok (p, h) → p.rst = false → s.busy = true → s.wait = 0 →
    (cmdOp s.curCmd = 0b111#3 ∨ cmdRsv s.curCmd ≠ 0b00#2) →
    ∃ t, step s = .next t ∧ AnswersError t 7 ∧ (outPorts t).reqReady = true ∧ KeepsRest h t

/-- Rules R22, R67: at the edge that completes a request whose command word decodes to a command, the step is the command's
meaning, at the state after the host's move (and the host's move changes no register of the block). -/
def Obligations.StepRunsDecodedCommand : Prop :=
  ∀ (s h : State) (p : Pins) (i : Instr), hostEdge s = .ok (p, h) → p.rst = false → s.busy = true → s.wait = 0 →
    decode s.curCmd = .instr i →
    step s = exec i h ∧ h.curCmd = s.curCmd ∧ h.curA = s.curA ∧ h.curB = s.curB

/-- Rule R67: at the edge that completes a request, the response registers take `Execute(CUR_CMD, CUR_A, CUR_B)`, for legal
and illegal command words alike, and nothing but the completion happens. -/
def Obligations.CompletionIsExecute : Prop :=
  ∀ (s h : State) (p : Pins), hostEdge s = .ok (p, h) → p.rst = false → s.busy = true → s.wait = 0 →
    ∃ t, step s = .next t ∧ t.rsp = execute s.curCmd s.curA s.curB ∧ Completed t ∧ KeepsRest h t

/-! ### Reset -/

/-- Rule R230: at an edge with `rst = 1` every register takes its reset value, whatever the state; a request in flight is
dropped and one presented at that edge is not accepted (`BUSY = 0` and no response is valid). `CUR_*` are unspecified. -/
def Obligations.ResetEdgeClearsResponse : Prop :=
  ∀ (s h : State) (p : Pins), hostEdge s = .ok (p, h) → p.rst = true →
    ∃ t, step s = .next t ∧ t.rsp.result = 0x00000000#32 ∧ t.rsp.err = 0 ∧ NoString t ∧ t.rspValid = false ∧
      t.busy = false ∧ t.wasReset = true ∧ t.script = h.script ∧ t.seen = h.seen

/-- Rules R21, R31: the values the spec gives for reset. -/
def Obligations.ResetStateValues : Prop :=
  State.reset.rsp.result = 0x00000000#32 ∧ State.reset.rsp.err = 0 ∧ NoString State.reset ∧
  State.reset.rspValid = false ∧ State.reset.busy = false ∧ (outPorts State.reset).reqReady = true

/-- Rules R21, R31: nothing reads `CUR_CMD`, `CUR_A` or `CUR_B` while `BUSY = 0`: two states that differ there alone take the
same step, up to those registers. -/
def Obligations.CapturedRequestUnreadWhileIdle : Prop :=
  ∀ s u : State, s.busy = false → eraseCaptured s = eraseCaptured u →
    (∀ t, step s = .next t → ∃ v, step u = .next v ∧ eraseCaptured v = eraseCaptured t) ∧
    (∀ f, step s = .fault f → step u = .fault f)

/-! ### Handshake -/

/-- Rules R22, R233: an accept captures the whole request, sets `BUSY`, clears `RSP_VALID` and leaves the response registers
as they were. -/
def Obligations.AcceptCapturesRequest : Prop :=
  ∀ (s h : State) (p : Pins), hostEdge s = .ok (p, h) → p.rst = false → p.reqValid = true → s.busy = false →
    ∃ t, step s = .next t ∧ t.curCmd = p.reqCmd ∧ t.curA = p.reqA ∧ t.curB = p.reqB ∧ t.busy = true ∧
      t.rspValid = false ∧ t.rsp = s.rsp ∧ t.script = h.script ∧ t.seen = h.seen

/-- Rules R46, R233, R234: while `BUSY = 1` nothing is accepted: short of a reset, the captured request stays as it is,
whatever the request port holds, and a held request stays on the port. -/
def Obligations.BusyBlockAcceptsNothing : Prop :=
  ∀ (s t : State), s.busy = true → step s = .next t →
    (∃ p rest, s.script = .drive p :: rest ∧ p.rst = true) ∨
    (t.curCmd = s.curCmd ∧ t.curA = s.curA ∧ t.curB = s.curB ∧
      ∀ c a b rest, s.script = .hold c a b :: rest → t.script = s.script)

/-- Rules R22, R45: short of a reset, the response registers change at a completion and nowhere else. -/
def Obligations.ResponsesHoldBetweenCompletions : Prop :=
  ∀ (s h t : State) (p : Pins), hostEdge s = .ok (p, h) → p.rst = false → ¬(s.busy = true ∧ s.wait = 0) →
    step s = .next t → t.rsp = s.rsp

/-- Rules R20, R21, R233: an edge with no reset, no request and nothing in flight changes no register of the block. -/
def Obligations.IdleEdgeChangesNothing : Prop :=
  ∀ (s h : State) (p : Pins), hostEdge s = .ok (p, h) → p.rst = false → p.reqValid = false → s.busy = false →
    step s = .next h ∧ h.rsp = s.rsp ∧ h.rspValid = s.rspValid ∧ h.busy = s.busy ∧ h.curCmd = s.curCmd ∧
      h.curA = s.curA ∧ h.curB = s.curB

/-- Rules R22, R233: after an accept, no fewer than `FXU_LATENCY(op)` edges bring the completion: at every earlier edge the
block is still busy, with the response registers unchanged (the host neither resets nor reads meanwhile). The statement
covers an illegal command word too: the spec names no op for one, and that its completion waits `FXU_LATENCY` of its `OP`
field is the model's choice (log entry 2: DESIGN CHOICE). -/
def Obligations.NoCompletionBeforeLatency : Prop :=
  ∀ (s h t : State) (p : Pins), hostEdge s = .ok (p, h) → p.rst = false → p.reqValid = true → s.busy = false →
    step s = .next t → (∀ m ∈ t.script, m.quiet = true) →
    ∀ k, k < Config.fxuLatency (cmdOp p.reqCmd) →
      ∃ u, core.run k t = .next u ∧ u.busy = true ∧ u.rspValid = false ∧ u.rsp = s.rsp

/-- Rules R22, R233: every captured request completes: if the host neither resets nor reads meanwhile, there is an edge at
which the response is `Execute` of the captured request. That this edge is the one `wait + 1` edges on, where `wait` is the
model's own count of a free number of edges, is the model's choice (log entry 2: DESIGN CHOICE). -/
def Obligations.CapturedRequestCompletes : Prop :=
  ∀ s : State, s.busy = true → (∀ m ∈ s.script, m.quiet = true) →
    ∃ t, core.run (s.wait + 1) s = .next t ∧ t.rsp = execute s.curCmd s.curA s.curB ∧ Completed t ∧
      t.curCmd = s.curCmd ∧ t.curA = s.curA ∧ t.curB = s.curB ∧ t.seen = s.seen

/-- Rules R46, R68, R233, R234, R235: a listing of requests, each presented until accepted and then awaited, runs to its end
on the clocked machine, and the host reads exactly the responses that `Execute` alone gives, in order, with `$k` standing
for the result of the listing's `k`-th request. The listing is the run's first: no request has been accepted before it. -/
def Obligations.ListingCollectsExecuteResponses : Prop :=
  ∀ (reqs : List HostRequest) (rs : List Response) (s : State),
    listingResponses [] reqs = some rs → s.script = listingScript reqs → s.seen = [] → s.results = [] →
    s.accepted = 0 → s.busy = false → s.wasReset = true →
    ∃ k t, core.run k s = .next t ∧ t.seen = rs ∧ t.script = [] ∧ t.busy = false

/-- Rule R68; rule R234, fourth hazard: the operand `$k` is the `RESULT` of the `k`-th accepted request, whatever the host has
read and in whatever order. A held request with `$k` is accepted with that word once `rsp_valid` has been 1 for request
`k`; before that it is a fault, which is the model's reading of the hazard (log entry 9: DEDUCED). A response found valid
is known under the number of the last accepted request, and an accept gives the next number (log entry 14: DESIGN CHOICE). -/
def Obligations.ResultOperandIsOfItsRequest : Prop :=
  (∀ (s : State) (cmd : Byte) (k : Nat) (b : HostOperand) (rest : List HostMove),
    s.script = .hold cmd (.result k) b :: rest → (∀ c ∈ (observe s).results, c.request ≠ k) →
    step s = .fault .resultNotReady) ∧
  (∀ (s : State) (cmd : Byte) (c : NumberedResponse) (b : Word) (rest : List HostMove), s.Inv → s.busy = false →
    s.script = .hold cmd (.result c.request) (.word b) :: rest → c.request ≠ 0 → c ∈ (observe s).results →
    ∃ t, step s = .next t ∧ t.curCmd = cmd ∧ t.curA = c.response.result ∧ t.curB = b ∧ t.busy = true ∧
      t.accepted = s.accepted + 1 ∧ t.script = rest) ∧
  (∀ s : State, s.Inv → s.wasReset = true → s.rspValid = true → ⟨s.accepted, s.rsp⟩ ∈ (observe s).results)

/-! ### Invariant and safety -/

/-- The invariant holds after reset. -/
def Obligations.ResetKeepsResponseInvariant : Prop := State.reset.Inv

/-- Rules R23, R25, R182, R200, R201, R234: every step from a state that meets the invariant gives a state that meets it. The
clauses on the numbers of the requests the host knows rest on log entry 14 (DESIGN CHOICE). -/
def Obligations.StepKeepsResponseInvariant : Prop :=
  ∀ s t : State, s.Inv → step s = .next t → t.Inv

/-- Rules R204, R206: the block never traps. A step fails to answer a next state only where the host's own move reads what
has no value, and no step is refused. -/
def Obligations.BlockNeverTraps : Prop :=
  (∀ s : State, SafeStep s ↔ ∃ p h, hostEdge s = .ok (p, h)) ∧ (∀ s r, step s ≠ .refused r)

/-- Rules R234, R200, R204: from a state after a reset that meets the invariant, a host that drives words and reads only when
`rsp_valid = 1` runs safely for ever. -/
def Obligations.RespectfulHostRunsSafely : Prop :=
  ∀ s : State, s.Inv → s.wasReset = true → (∀ m ∈ s.script, m.respectful = true) → ∀ k, SafeRun k s

/-! ### The ports -/

/-- Rule R20: the output ports are the registers; `req_ready` is `NOT BUSY`. -/
def Obligations.OutputPortsShowRegisters : Prop :=
  ∀ s : State, (outPorts s).reqReady = (!s.busy) ∧ (outPorts s).rspValid = s.rspValid ∧
    (outPorts s).rspResult = s.rsp.result ∧ (outPorts s).rspErr = s.rsp.err ∧ (outPorts s).rspLen = s.rsp.len ∧
    (outPorts s).rspStr = packStr s.rsp.str

/-- Rule R42: character `i` is on `rsp_str[8i+7:8i]`, and a host that stores `rsp_str` little-endian from `p` puts it at
byte address `p + i`. -/
def Obligations.StringPackedLeastByteFirst : Prop :=
  ∀ (s : State) (i : Fin 16),
    (outPorts s).rspStr.extractLsb' (8 * i.val) 8 = s.rsp.str[i] ∧
    ∀ p : Nat, (storeRspStr p (outPorts s).rspStr)[i.val]? = some (p + i.val, s.rsp.str[i])

/-- Rules R231, R234 (first hazard): a response read before the first reset edge is a fault, and so is a read while
`rsp_valid = 0`; a host that waits for `rsp_valid` instead goes on waiting. That a host which waits for `rsp_valid` before
the first reset edge faults too, since `rsp_valid` has no value then, is the model's choice (log entry 9: DEDUCED). -/
def Obligations.ReadsWithoutValueFault : Prop :=
  ∀ (s : State) (rest : List HostMove),
    (s.wasReset = false → s.script = .read :: rest ∨ s.script = .await :: rest → step s = .fault .readBeforeReset) ∧
    (s.wasReset = true → s.rspValid = false → s.script = .read :: rest → step s = .fault .staleRead) ∧
    (s.wasReset = true → s.rspValid = false → s.script = .await :: rest →
      ∃ t, step s = .next t ∧ t.script = s.script ∧ t.seen = s.seen)

/-- Rule R45: reading a valid response has no side effect and clears nothing: the host has it, every register of the block
is as before, and a second read gives the same response. What the host knows of the requests is what it observes anyway. -/
def Obligations.ReadingClearsNothing : Prop :=
  ∀ (s : State) (m m' : HostMove) (rest : List HostMove), s.Inv → s.wasReset = true → s.rspValid = true →
    (m = .read ∨ m = .await) → (m' = .read ∨ m' = .await) → s.script = m :: m' :: rest →
    ∃ t, core.run 2 s = .next t ∧ t = { observe s with script := rest, seen := s.seen ++ [s.rsp, s.rsp] }

/-! ### Every command -/

/-- Every command completes in every state, and leaves alone the captured request and everything that is no response
register, `BUSY` or `RSP_VALID` (rules R22, R26, R45). -/
def Obligations.CommandsCompleteAndKeepTheRest : Prop :=
  ∀ (i : Instr) (s : State), ∃ t, exec i s = .next t ∧ Completed t ∧ KeepsRest s t

/-- Rules R32, R235, R24, R206: the response depends only on the command and the captured operands, never on an earlier
request, response or error. -/
def Obligations.ResponseDependsOnlyOnRequest : Prop :=
  ∀ (i : Instr) (s u : State), s.curA = u.curA → s.curB = u.curB →
    ∃ t v, exec i s = .next t ∧ exec i u = .next v ∧ t.rsp = v.rsp

/-- Rules R63, R66: `F2Q`, `Q2F` and `FMT` ignore operand `B`: any two values of it give the same response. -/
def Obligations.UnaryCommandsIgnoreB : Prop :=
  ∀ (i : Instr) (s : State) (b : Word), i.readsB = false →
    ∃ t v, exec i s = .next t ∧ exec i { s with curB := b } = .next v ∧ t.rsp = v.rsp

/-- Rules R64, R66: every command but `FMT` ignores `PREC`. -/
def Obligations.OnlyFmtReadsPrec : Prop :=
  ∀ (p q : Nat) (s : State), exec (.adds p) s = exec (.adds q) s ∧ exec (.subs p) s = exec (.subs q) s ∧
    exec (.mul p) s = exec (.mul q) s ∧ exec (.div p) s = exec (.div q) s ∧ exec (.f2q p) s = exec (.f2q q) s ∧
    exec (.q2f p) s = exec (.q2f q) s

/-- Rule R201: a failed request, be it a command's failure or an illegal command word, writes its code and clears every other
response register, and that is all that changes beside the completion and the host's own move. -/
def Obligations.FailureIsAtomic : Prop :=
  ∀ (s h t : State) (p : Pins), hostEdge s = .ok (p, h) → p.rst = false → s.busy = true → s.wait = 0 →
    step s = .next t → t.rsp.err ≠ 0 → AnswersError t t.rsp.err ∧ KeepsRest h t

/-- Rule R202: the codes each command can report; an illegal command word reports 7. -/
def Obligations.ReportableCodes : Prop :=
  (∀ (i : Instr) (s t : State), exec i s = .next t →
    match i with
    | .adds _ | .subs _ | .mul _ | .q2f _ | .fmt _ => t.rsp.err = 0
    | .div _ => t.rsp.err = 0 ∨ t.rsp.err = 5
    | .f2q _ => t.rsp.err = 0 ∨ t.rsp.err = 1 ∨ t.rsp.err = 2 ∨ t.rsp.err = 3 ∨ t.rsp.err = 4) ∧
  ∀ (w : Byte) (a b : Word), (decode w).toOption = none → (execute w a b).err = 7

/-! ### ADDS and SUBS -/

/-- Rule R100: `ADDS` by its sign test on the wrapped sum. -/
def Obligations.AddsBySignTest : Prop :=
  ∀ (p : Nat) (s : State), ∃ t, exec (.adds p) s = .next t ∧ AnswersWord t
    (if s.curA.msb ≠ s.curB.msb then s.curA + s.curB
     else if (s.curA + s.curB).msb ≠ s.curA.msb then
       if s.curA.msb = false then 0x7FFFFFFF#32 else 0x80000000#32
     else s.curA + s.curB)

/-- Rule R101: `ADDS` computes exactly the clamp of the true sum. -/
def Obligations.AddsClampsTrueSum : Prop :=
  ∀ (p : Nat) (s : State), ∃ t, exec (.adds p) s = .next t ∧
    AnswersWord t (BitVec.ofInt 32 (max (-2 ^ 31) (min (s.curA.toInt + s.curB.toInt) (2 ^ 31 - 1))))

/-- Rule R102: `SUBS` by its sign test on the wrapped difference. -/
def Obligations.SubsBySignTest : Prop :=
  ∀ (p : Nat) (s : State), ∃ t, exec (.subs p) s = .next t ∧ AnswersWord t
    (if s.curA.msb = s.curB.msb then s.curA - s.curB
     else if (s.curA - s.curB).msb ≠ s.curA.msb then
       if s.curA.msb = false then 0x7FFFFFFF#32 else 0x80000000#32
     else s.curA - s.curB)

/-- Rule R103: `SUBS` computes exactly the clamp of the true difference. -/
def Obligations.SubsClampsTrueDifference : Prop :=
  ∀ (p : Nat) (s : State), ∃ t, exec (.subs p) s = .next t ∧
    AnswersWord t (BitVec.ofInt 32 (max (-2 ^ 31) (min (s.curA.toInt - s.curB.toInt) (2 ^ 31 - 1))))

/-- Rule R102, corner case: `SUBS(A, B)` is `ADDS(A, -B)` exactly when `B` is not `INT32_MIN`. -/
def Obligations.SubsIsAddOfNegationExceptAtMin : Prop :=
  ∀ a b : Word, subsWord a b = addsWord a (-b) ↔ b ≠ 0x80000000#32

/-! ### MUL and DIV -/

/-- Rules R120, R121, R122: `MUL` keeps the low 32 bits of the floor of the exact product over 2^16. -/
def Obligations.MulKeepsLowBitsOfFloor : Prop :=
  ∀ (p : Nat) (s : State), ∃ t, exec (.mul p) s = .next t ∧
    AnswersWord t (BitVec.ofInt 32 ⌊(s.curA.toInt * s.curB.toInt : ℚ) / 2 ^ 16⌋)

/-- Rules R123, R124: on a divisor that is not zero, `DIV` keeps the low 32 bits of the quotient truncated toward zero, which
is the sign of the exact quotient times the floor of its magnitude (rule R9). -/
def Obligations.DivKeepsLowBitsOfTruncation : Prop :=
  ∀ (p : Nat) (s : State), s.curB ≠ 0 → ∃ t, exec (.div p) s = .next t ∧
    AnswersWord t (BitVec.ofInt 32
      ((s.curA.toInt * 2 ^ 16).sign * s.curB.toInt.sign * ((s.curA.toInt * 2 ^ 16).natAbs / s.curB.toInt.natAbs : Nat)))

/-- Rule R125: `DIV` by zero reports code 5 whatever the dividend, and computes no quotient. -/
def Obligations.DivByZeroReportsCode5 : Prop :=
  ∀ (p : Nat) (s : State), s.curB = 0x00000000#32 → ∃ t, exec (.div p) s = .next t ∧ AnswersError t 5 ∧ KeepsRest s t

/-- Rule R127: where the true product or quotient lies in the representable range, `MUL` is within one raw unit below the
exact product, and `DIV` is within one raw unit of the exact quotient, toward zero. -/
def Obligations.ProductAndQuotientWithinOneUnit : Prop :=
  (∀ (a b : Word) (exact : ℚ), exact = (a.toInt * b.toInt : ℚ) / 2 ^ 16 → -2 ^ 31 ≤ exact → exact ≤ 2 ^ 31 - 1 →
    exact - 1 < ((mulWord a b).toInt : ℚ) ∧ ((mulWord a b).toInt : ℚ) ≤ exact) ∧
  (∀ (a b y : Word) (exact : ℚ), b ≠ 0 → divWord a b = .ok y → exact = (a.toInt * 2 ^ 16 : ℚ) / b.toInt →
    -2 ^ 31 ≤ exact → exact ≤ 2 ^ 31 - 1 →
    |exact - (y.toInt : ℚ)| < 1 ∧ |(y.toInt : ℚ)| ≤ |exact| ∧ 0 ≤ (y.toInt : ℚ) * exact)

/-- Rules R120, R123, corner cases: `ONE` is the identity of both, zero annihilates, the operand order of `MUL` does not
matter, and a number that is not zero divided by itself is `ONE`. -/
def Obligations.MulDivIdentities : Prop :=
  ∀ a b : Word, mulWord a 0x00010000#32 = a ∧ mulWord a 0 = 0 ∧ mulWord a b = mulWord b a ∧
    divWord a 0x00010000#32 = .ok a ∧ (a ≠ 0 → divWord a a = .ok 0x00010000#32)

/-! ### F2Q and Q2F -/

/-- Rule R30: every binary32 pattern is in exactly one class. -/
def Obligations.ClassesPartitionPatterns : Prop :=
  ∀ f : Word, ∃ c : F32Class, c.holds f = true ∧ ∀ d : F32Class, d.holds f = true → d = c

/-- Rule R141: the outcomes of `F2Q` by exponent and mantissa field. Exactly one row applies to each pattern, and the rows are
those of the rule's table. A converted pattern gives a word that is not zero. -/
def Obligations.F2qOutcomeTable : Prop :=
  ∀ (p : Nat) (s : State), ∃ t, exec (.f2q p) s = .next t ∧
    let e := (s.curA.extractLsb' 23 8).toNat
    let m := (s.curA.extractLsb' 0 23).toNat
    (e = 255 → m = 0 → AnswersError t 1) ∧
    (e = 255 → m ≠ 0 → AnswersError t 2) ∧
    (e = 0 → m = 0 → AnswersWord t 0) ∧
    (e = 0 → m ≠ 0 → AnswersError t 3) ∧
    (1 ≤ e → e ≤ 112 → AnswersWord t 0) ∧
    (113 ≤ e → e ≤ 141 → ∃ y, y ≠ 0 ∧ AnswersWord t y) ∧
    (142 ≤ e → e ≤ 254 → AnswersError t 4)

/-- Rules R144, R145, R146: for a normal pattern with `113 <= e <= 141` or `1 <= e <= 110`, of value
`(-1)^s (2^23 + m) 2^(e-150)`, `F2Q` gives the value times 2^16 truncated toward zero. -/
def Obligations.F2qTruncatesTowardZero : Prop :=
  ∀ (p : Nat) (s : State),
    let e := (s.curA.extractLsb' 23 8).toNat
    let m := (s.curA.extractLsb' 0 23).toNat
    let x : ℚ := (if s.curA.msb then -1 else 1) * (2 ^ 23 + m) * (2 : ℚ) ^ ((e : ℤ) - 150)
    ((113 ≤ e ∧ e ≤ 141) ∨ (1 ≤ e ∧ e ≤ 110)) →
    ∃ t, exec (.f2q p) s = .next t ∧
      AnswersWord t (BitVec.ofInt 32 (if s.curA.msb then ⌈x * 2 ^ 16⌉ else ⌊x * 2 ^ 16⌋))

/-- Rule R143: `F2Q` reports out of range exactly when `142 <= e <= 254`, that is, exactly for the patterns that stand for a
number of magnitude 32768 or more; the sign does not matter. -/
def Obligations.OutOfRangeFromMagnitude32768 : Prop :=
  ∀ (p : Nat) (s : State),
    let e := (s.curA.extractLsb' 23 8).toNat
    let m := (s.curA.extractLsb' 0 23).toNat
    ∃ t, exec (.f2q p) s = .next t ∧ (AnswersError t 4 ↔ 142 ≤ e ∧ e ≤ 254) ∧
      (1 ≤ e → e ≤ 254 → (AnswersError t 4 ↔ 32768 ≤ (2 ^ 23 + m : ℚ) * (2 : ℚ) ^ ((e : ℤ) - 150)))

/-- Rule R151: the loops of `Q2F` end with a magnitude in `[2^23, 2^24)`, at `e = 111 + L` with the bits below the leading
bit `L` of the operand's magnitude as the mantissa: bits `L-1` down to `L-23`, zeros below bit 0. -/
def Obligations.Q2fLeadingBitForm : Prop :=
  ∀ (p : Nat) (s : State), s.curA ≠ 0 →
    let mag := s.curA.toInt.natAbs
    let lead := Nat.log2 mag
    2 ^ 23 ≤ (normalizeTo24Bits mag).1 ∧ (normalizeTo24Bits mag).1 < 2 ^ 24 ∧ lead ≤ 31 ∧
    ∃ t y, exec (.q2f p) s = .next t ∧ AnswersWord t y ∧ y.msb = decide (s.curA.toInt < 0) ∧
      (y.extractLsb' 23 8).toNat = 111 + lead ∧
      ∀ j : Nat, j < 23 → y.getLsbD j = (decide (23 ≤ j + lead) && mag.testBit (j + lead - 23))

/-- Rule R152: the value of `Q2F`'s result is the operand's value truncated toward zero to 24 significant bits: no more than
the exact magnitude, by less than one unit of its last place, and exact where the magnitude is below 2^24. -/
def Obligations.Q2fTruncatesTo24Bits : Prop :=
  ∀ a : Word, a ≠ 0 →
    let x : ℚ := (a.toInt.natAbs : ℚ) / 2 ^ 16
    let e := f32Exp (q2fWord a)
    let m := f32Mant (q2fWord a)
    (2 ^ 23 + m : ℚ) * (2 : ℚ) ^ ((e : ℤ) - 150) ≤ x ∧ x < (2 ^ 23 + m + 1 : ℚ) * (2 : ℚ) ^ ((e : ℤ) - 150) ∧
    (a.toInt.natAbs < 2 ^ 24 → x = (2 ^ 23 + m : ℚ) * (2 : ℚ) ^ ((e : ℤ) - 150))

/-- Rule R153: `Q2F` never gives a NaN, an infinity, a subnormal or `-0.0`; its exponent is in 111..142, and it gives `+0.0` for
raw 0 only. -/
def Obligations.Q2fGivesNormalOrPlusZero : Prop :=
  ∀ (p : Nat) (s : State), ∃ t y, exec (.q2f p) s = .next t ∧ AnswersWord t y ∧
    ((s.curA = 0 ∧ y = 0x00000000#32) ∨
     (s.curA ≠ 0 ∧ y ≠ 0x00000000#32 ∧ y ≠ 0x80000000#32 ∧ 111 ≤ f32Exp y ∧ f32Exp y ≤ 142 ∧
      F32Class.normal.holds y = true))

/-- Rule R154: `F2Q(Q2F(r))` in its four cases. -/
def Obligations.FloatRoundTrip : Prop :=
  ∀ r : Word, let mag := r.toInt.natAbs
    let back := f2qWord Config.denormClampExp (q2fWord r)
    ((4 ≤ mag ∧ mag < 2 ^ 24) ∨ r = 0 → back = .ok r) ∧
    (1 ≤ mag ∧ mag ≤ 3 → back = .ok 0) ∧
    (2 ^ 24 ≤ mag ∧ mag < 2 ^ 31 →
      let unit := 2 ^ (Nat.log2 mag - 23)
      back = .ok (BitVec.ofInt 32 (r.toInt.sign * (mag / unit * unit : Nat)))) ∧
    (r = 0x80000000#32 → back = .error .outOfRange)

/-! ### FMT -/

/-- Rules R178, R179, R180: `FMT` never fails: every raw value and every `PREC` gives the unit's string, in `STR` from `STR[0]`
on, with its length in `LEN` and `RESULT` zero. -/
def Obligations.FmtNeverFails : Prop :=
  ∀ (p : Nat) (s : State), ∃ t, exec (.fmt p) s = .next t ∧
    AnswersString t (fmtChars 0x2E#8 s.curA (BitVec.ofNat 3 p))

/-- Rule R171: the precision is `PREC`, or 2 where `PREC` is 0, so it lies in 1..7; 8 masks to 0. -/
def Obligations.FmtZeroPrecisionMeansTwo : Prop :=
  (∀ s : State, exec (.fmt 0) s = exec (.fmt 2) s ∧ exec (.fmt 8) s = exec (.fmt 2) s) ∧
  ∀ p : BitVec 3, 1 ≤ fmtPrecision p ∧ fmtPrecision p ≤ 7 ∧ (p ≠ 0 → fmtPrecision p = p.toNat)

/-- Rule R184: the string `FMT` leaves, read back as a decimal numeral, is within half a unit of the last printed digit of the
exact magnitude (`p0` is the precision before stripping), and its sign is the sign of the raw value. -/
def Obligations.FmtPrintsWithinHalfUnit : Prop :=
  ∀ (p : Nat) (s : State), ∃ t d, exec (.fmt p) s = .next t ∧
    readDecimal 0x2E#8 (responseChars t.rsp) = some d ∧
    d.negative = decide (s.curA.toInt < 0) ∧
    let p0 := fmtPrecision (BitVec.ofNat 3 p)
    let v : ℚ := (d.number : ℚ) / 10 ^ d.places
    let x : ℚ := (s.curA.toInt.natAbs : ℚ) / 2 ^ 16
    d.places ≤ p0 ∧ -(1 / 2) / 10 ^ p0 < v - x ∧ v - x ≤ (1 / 2) / 10 ^ p0

/-- Rule R182: after `FMT` the length is at least 1 and at most 14, and both ends are met; an integer part of 32768 arises only
with no printed fraction, and the string has then at most 6 characters. -/
def Obligations.FmtLengthAtMost14 : Prop :=
  (∀ (p : Nat) (s : State), ∃ t, exec (.fmt p) s = .next t ∧ 1 ≤ t.rsp.len.toNat ∧ t.rsp.len.toNat ≤ 14 ∧
    ((fmtDigits s.curA (BitVec.ofNat 3 p)).1 = 32768 →
      (fmtDigits s.curA (BitVec.ofNat 3 p)).2.2 = 0 ∧ t.rsp.len.toNat ≤ 6)) ∧
  (fmtChars 0x2E#8 0x80000080#32 7#3).length = 14 ∧ ∀ prec : BitVec 3, fmtChars 0x2E#8 0x00000000#32 prec = [0x30#8]

/-- Rules R176, R177, R178: the string is `-` for a negative value, then the integer part, then, where there is a fraction, a
point and its digits. The integer part is the numeral of its number, with no leading zeros and no padding (zero is `0`);
the fraction never ends in `0`, so where the string holds a point its last character is a digit from `1` to `9`. -/
def Obligations.FmtDigitsAreMinimal : Prop :=
  ∀ (a : Word) (prec : BitVec 3), ∃ whole frac : List Byte,
    fmtChars 0x2E#8 a prec =
      (if a.toInt < 0 then [0x2D#8] else []) ++ whole ++ (if frac = [] then [] else 0x2E#8 :: frac) ∧
    (∀ c ∈ whole ++ frac, 0x30 ≤ c.toNat ∧ c.toNat ≤ 0x39) ∧
    whole ≠ [] ∧ (whole.head? = some 0x30#8 → whole = [0x30#8]) ∧
    charsValue 0 whole = some (fmtDigits a prec).1 ∧
    frac.getLast? ≠ some 0x30#8 ∧
    (0x2E#8 ∈ fmtChars 0x2E#8 a prec →
      ∃ c, (fmtChars 0x2E#8 a prec).getLast? = some c ∧ 0x31 ≤ c.toNat ∧ c.toNat ≤ 0x39)

/-- Rule R172: the sign is a literal prefix, computed apart from the digits: the string of a negative value is `-` before the
string of its magnitude, even where every digit is zero. -/
def Obligations.FmtSignIsPrefixOfMagnitude : Prop :=
  ∀ (point : Byte) (a : Word) (prec : BitVec 3), a.toInt < 0 → a ≠ 0x80000000#32 →
    fmtChars point a prec = 0x2D#8 :: fmtChars point (-a) prec

/-! ### Standalone modules and the assembler -/

/-- Rules R104, R126, R147, R155, R181: each standalone module drives what its command answers. -/
def Obligations.ModulesMatchCommands : Prop :=
  ∀ (p : Nat) (s : State),
    (∃ t, exec (.adds p) s = .next t ∧ AnswersWord t (moduleAdderSat s.curA s.curB)) ∧
    (∃ t, exec (.subs p) s = .next t ∧ AnswersWord t (moduleSubtractorSat s.curA s.curB)) ∧
    (∃ t, exec (.mul p) s = .next t ∧ AnswersWord t (moduleMultiplier s.curA s.curB)) ∧
    (∃ t, exec (.div p) s = .next t ∧ t.rsp.result = (moduleDivider s.curA s.curB).1 ∧
      (moduleDivider s.curA s.curB).2 = decide (s.curB = 0) ∧ (s.curB = 0 ↔ t.rsp.err = 5)) ∧
    (∃ t, exec (.f2q p) s = .next t ∧ t.rsp.result = (moduleF2q s.curA).1 ∧ t.rsp.err = (moduleF2q s.curA).2) ∧
    (∃ t, exec (.q2f p) s = .next t ∧ AnswersWord t (moduleQ2f s.curA)) ∧
    (∃ t, exec (.fmt p) s = .next t ∧ (outPorts t).rspStr = (moduleFormatter s.curA (BitVec.ofNat 3 p)).1 ∧
      t.rsp.len = (moduleFormatter s.curA (BitVec.ofNat 3 p)).2)

/-- Rule R68: what word an operand stands for, and what request each form of a line encodes (`B = 0` and `PREC = 000` where
they are ignored). A hexadecimal literal is its number, zero-extended; a decimal number `d` is the raw word of `d * 2^16`
where that is an integer in `[-2^31, 2^31-1]`, and is rejected where it is not; `$j` is the result of request `j`; `.req`
encodes its three words. That a decimal has a digit before its point, that `$j` names an earlier request of the listing, and
how many digits the words of `.req` have (1 to 2 for `CMD`, 1 to 8 for `A` and `B`), is the model's choice (log entry 10:
DESIGN CHOICE). -/
def Obligations.AssemblerFormsEncode : Prop :=
  (∀ (k : Nat) (ds : List (Fin 16)), 1 ≤ ds.length → ds.length ≤ 8 →
    argOperand k (.hex ds) = some (.word (BitVec.ofNat 32 (Nat.ofDigits 16 (ds.map Fin.val).reverse)))) ∧
  (∀ (k : Nat) (neg : Bool) (whole frac : List (Fin 10)) (d : ℚ), whole ≠ [] →
    d = (if neg then -1 else 1) * (Nat.ofDigits 10 ((whole ++ frac).map Fin.val).reverse : ℚ) / 10 ^ frac.length →
    (∀ n : ℤ, d * 2 ^ 16 = n → -2 ^ 31 ≤ n → n ≤ 2 ^ 31 - 1 →
      argOperand k (.dec neg whole frac) = some (.word (BitVec.ofInt 32 n))) ∧
    ((¬∃ n : ℤ, d * 2 ^ 16 = n ∧ -2 ^ 31 ≤ n ∧ n ≤ 2 ^ 31 - 1) → argOperand k (.dec neg whole frac) = none)) ∧
  (∀ k j : Nat, 1 ≤ j → j < k → argOperand k (.res j) = some (.result j)) ∧
  (∀ (k : Nat) (c a b : List (Fin 16)), 1 ≤ c.length → c.length ≤ 2 → 1 ≤ a.length → a.length ≤ 8 →
    1 ≤ b.length → b.length ≤ 8 →
    lineRequest k (.req c a b) = some
      ⟨BitVec.ofNat 8 (Nat.ofDigits 16 (c.map Fin.val).reverse),
        .word (BitVec.ofNat 32 (Nat.ofDigits 16 (a.map Fin.val).reverse)),
        .word (BitVec.ofNat 32 (Nat.ofDigits 16 (b.map Fin.val).reverse))⟩) ∧
  ∀ (k p : Nat) (a b : Arg) (x y : HostOperand), argOperand k a = some x → argOperand k b = some y → p < 8 →
    lineRequest k (.adds a b) = some ⟨0x00, x, y⟩ ∧ lineRequest k (.subs a b) = some ⟨0x01, x, y⟩ ∧
    lineRequest k (.mul a b) = some ⟨0x02, x, y⟩ ∧ lineRequest k (.div a b) = some ⟨0x03, x, y⟩ ∧
    lineRequest k (.f2q a) = some ⟨0x04, x, .word 0⟩ ∧ lineRequest k (.q2f a) = some ⟨0x05, x, .word 0⟩ ∧
    lineRequest k (.fmt a p) = some ⟨encode (.fmt p), x, .word 0⟩

/-- Rule R69: the pseudo-instructions expand to the requests of their expansions, and their notes hold: the saturating negate
of `INT32_MIN` is `INT32_MAX`, `MOVQ` never changes its operand, and the reciprocal of zero is DivideByZero. -/
def Obligations.PseudoInstructionsExpand : Prop :=
  (∀ (k : Nat) (a : Arg) (x : HostOperand), argOperand k a = some x →
    lineRequest k (.negs a) = some ⟨0x01, .word 0x00000000#32, x⟩ ∧
    lineRequest k (.movq a) = some ⟨0x00, x, .word 0x00000000#32⟩ ∧
    lineRequest k (.sqr a) = some ⟨0x02, x, x⟩ ∧
    lineRequest k (.recip a) = some ⟨0x03, .word 0x00010000#32, x⟩ ∧
    lineRequest k (.fmtDefault a) = lineRequest k (.fmt a 0)) ∧
  (execute 0x01#8 0x00000000#32 0x80000000#32).result = 0x7FFFFFFF#32 ∧
  (∀ a : Word, (execute 0x00#8 a 0x00000000#32).result = a) ∧
  (execute 0x03#8 0x00010000#32 0x00000000#32).err = 5

/-- Rule R68: the assembler takes exactly the well-formed listings. Three of the checks are the model's choice: that `$k` names an
earlier request of the listing, that a decimal number has a whole part, and that the words of `.req` have 1 to 2 digits for
`CMD` and 1 to 8 for `A` and `B` (log entry 10: DESIGN CHOICE). -/
def Obligations.AssemblerTakesWellFormedListings : Prop :=
  ∀ (k : Nat) (lines : List Line), (assemble k lines).isSome = true ↔ listingWellFormed k lines = true
end

