-- ==== Sys2Proof/Laws/State.lean ====
section
/-! SUPPORT. One lemma for each field of the state under each update, and the fields of the responses. -/

namespace Sys2Proof.Machine

/-! ### complete -/

@[simp] theorem complete_rsp (r : Response) (s : State) : (complete r s).rsp = r := rfl
@[simp] theorem complete_rspValid (r : Response) (s : State) : (complete r s).rspValid = true := rfl
@[simp] theorem complete_busy (r : Response) (s : State) : (complete r s).busy = false := rfl
@[simp] theorem complete_curCmd (r : Response) (s : State) : (complete r s).curCmd = s.curCmd := rfl
@[simp] theorem complete_curA (r : Response) (s : State) : (complete r s).curA = s.curA := rfl
@[simp] theorem complete_curB (r : Response) (s : State) : (complete r s).curB = s.curB := rfl
@[simp] theorem complete_wasReset (r : Response) (s : State) : (complete r s).wasReset = s.wasReset := rfl
@[simp] theorem complete_wait (r : Response) (s : State) : (complete r s).wait = s.wait := rfl
@[simp] theorem complete_accepted (r : Response) (s : State) : (complete r s).accepted = s.accepted := rfl
@[simp] theorem complete_draws (r : Response) (s : State) : (complete r s).draws = s.draws := rfl
@[simp] theorem complete_script (r : Response) (s : State) : (complete r s).script = s.script := rfl
@[simp] theorem complete_seen (r : Response) (s : State) : (complete r s).seen = s.seen := rfl
@[simp] theorem complete_results (r : Response) (s : State) : (complete r s).results = s.results := rfl

/-! ### resetEdge -/

@[simp] theorem resetEdge_rsp (s : State) : (resetEdge s).rsp = Response.cleared := rfl
@[simp] theorem resetEdge_rspValid (s : State) : (resetEdge s).rspValid = false := rfl
@[simp] theorem resetEdge_busy (s : State) : (resetEdge s).busy = false := rfl
@[simp] theorem resetEdge_curCmd (s : State) : (resetEdge s).curCmd = Config.curCmdAfterReset s.draws := rfl
@[simp] theorem resetEdge_curA (s : State) : (resetEdge s).curA = Config.curAAfterReset s.draws := rfl
@[simp] theorem resetEdge_curB (s : State) : (resetEdge s).curB = Config.curBAfterReset s.draws := rfl
@[simp] theorem resetEdge_wasReset (s : State) : (resetEdge s).wasReset = true := rfl
@[simp] theorem resetEdge_wait (s : State) : (resetEdge s).wait = 0 := rfl
@[simp] theorem resetEdge_accepted (s : State) : (resetEdge s).accepted = s.accepted := rfl
@[simp] theorem resetEdge_draws (s : State) : (resetEdge s).draws = s.draws + 1 := rfl
@[simp] theorem resetEdge_script (s : State) : (resetEdge s).script = s.script := rfl
@[simp] theorem resetEdge_seen (s : State) : (resetEdge s).seen = s.seen := rfl
@[simp] theorem resetEdge_results (s : State) : (resetEdge s).results = s.results := rfl

/-! ### acceptRequest -/

@[simp] theorem acceptRequest_rsp (p : Pins) (s : State) : (acceptRequest p s).rsp = s.rsp := rfl
@[simp] theorem acceptRequest_rspValid (p : Pins) (s : State) : (acceptRequest p s).rspValid = false := rfl
@[simp] theorem acceptRequest_busy (p : Pins) (s : State) : (acceptRequest p s).busy = true := rfl
@[simp] theorem acceptRequest_curCmd (p : Pins) (s : State) : (acceptRequest p s).curCmd = p.reqCmd := rfl
@[simp] theorem acceptRequest_curA (p : Pins) (s : State) : (acceptRequest p s).curA = p.reqA := rfl
@[simp] theorem acceptRequest_curB (p : Pins) (s : State) : (acceptRequest p s).curB = p.reqB := rfl
@[simp] theorem acceptRequest_wasReset (p : Pins) (s : State) : (acceptRequest p s).wasReset = s.wasReset := rfl
@[simp] theorem acceptRequest_wait (p : Pins) (s : State) : (acceptRequest p s).wait = edgesToWait p.reqCmd s.draws := rfl
@[simp] theorem acceptRequest_accepted (p : Pins) (s : State) : (acceptRequest p s).accepted = s.accepted + 1 := rfl
@[simp] theorem acceptRequest_draws (p : Pins) (s : State) : (acceptRequest p s).draws = s.draws + 1 := rfl
@[simp] theorem acceptRequest_script (p : Pins) (s : State) : (acceptRequest p s).script = s.script := rfl
@[simp] theorem acceptRequest_seen (p : Pins) (s : State) : (acceptRequest p s).seen = s.seen := rfl
@[simp] theorem acceptRequest_results (p : Pins) (s : State) : (acceptRequest p s).results = s.results := rfl

/-! ### waitEdge -/

@[simp] theorem waitEdge_rsp (s : State) : (waitEdge s).rsp = s.rsp := rfl
@[simp] theorem waitEdge_rspValid (s : State) : (waitEdge s).rspValid = s.rspValid := rfl
@[simp] theorem waitEdge_busy (s : State) : (waitEdge s).busy = s.busy := rfl
@[simp] theorem waitEdge_curCmd (s : State) : (waitEdge s).curCmd = s.curCmd := rfl
@[simp] theorem waitEdge_curA (s : State) : (waitEdge s).curA = s.curA := rfl
@[simp] theorem waitEdge_curB (s : State) : (waitEdge s).curB = s.curB := rfl
@[simp] theorem waitEdge_wasReset (s : State) : (waitEdge s).wasReset = s.wasReset := rfl
@[simp] theorem waitEdge_wait (s : State) : (waitEdge s).wait = s.wait - 1 := rfl
@[simp] theorem waitEdge_accepted (s : State) : (waitEdge s).accepted = s.accepted := rfl
@[simp] theorem waitEdge_draws (s : State) : (waitEdge s).draws = s.draws := rfl
@[simp] theorem waitEdge_script (s : State) : (waitEdge s).script = s.script := rfl
@[simp] theorem waitEdge_seen (s : State) : (waitEdge s).seen = s.seen := rfl
@[simp] theorem waitEdge_results (s : State) : (waitEdge s).results = s.results := rfl

/-! ### popMove -/

@[simp] theorem popMove_rsp (s : State) : (popMove s).rsp = s.rsp := rfl
@[simp] theorem popMove_rspValid (s : State) : (popMove s).rspValid = s.rspValid := rfl
@[simp] theorem popMove_busy (s : State) : (popMove s).busy = s.busy := rfl
@[simp] theorem popMove_curCmd (s : State) : (popMove s).curCmd = s.curCmd := rfl
@[simp] theorem popMove_curA (s : State) : (popMove s).curA = s.curA := rfl
@[simp] theorem popMove_curB (s : State) : (popMove s).curB = s.curB := rfl
@[simp] theorem popMove_wasReset (s : State) : (popMove s).wasReset = s.wasReset := rfl
@[simp] theorem popMove_wait (s : State) : (popMove s).wait = s.wait := rfl
@[simp] theorem popMove_accepted (s : State) : (popMove s).accepted = s.accepted := rfl
@[simp] theorem popMove_draws (s : State) : (popMove s).draws = s.draws := rfl
@[simp] theorem popMove_script (s : State) : (popMove s).script = s.script.tail := rfl
@[simp] theorem popMove_seen (s : State) : (popMove s).seen = s.seen := rfl
@[simp] theorem popMove_results (s : State) : (popMove s).results = s.results := rfl

/-! ### collect -/

@[simp] theorem collect_rsp (r : Response) (s : State) : (collect r s).rsp = s.rsp := rfl
@[simp] theorem collect_rspValid (r : Response) (s : State) : (collect r s).rspValid = s.rspValid := rfl
@[simp] theorem collect_busy (r : Response) (s : State) : (collect r s).busy = s.busy := rfl
@[simp] theorem collect_curCmd (r : Response) (s : State) : (collect r s).curCmd = s.curCmd := rfl
@[simp] theorem collect_curA (r : Response) (s : State) : (collect r s).curA = s.curA := rfl
@[simp] theorem collect_curB (r : Response) (s : State) : (collect r s).curB = s.curB := rfl
@[simp] theorem collect_wasReset (r : Response) (s : State) : (collect r s).wasReset = s.wasReset := rfl
@[simp] theorem collect_wait (r : Response) (s : State) : (collect r s).wait = s.wait := rfl
@[simp] theorem collect_accepted (r : Response) (s : State) : (collect r s).accepted = s.accepted := rfl
@[simp] theorem collect_draws (r : Response) (s : State) : (collect r s).draws = s.draws := rfl
@[simp] theorem collect_script (r : Response) (s : State) : (collect r s).script = s.script.tail := rfl
@[simp] theorem collect_seen (r : Response) (s : State) : (collect r s).seen = s.seen ++ [r] := rfl
@[simp] theorem collect_results (r : Response) (s : State) : (collect r s).results = s.results := rfl

/-! ### observe -/

@[simp] theorem observe_rsp (s : State) : (observe s).rsp = s.rsp := by unfold observe; split <;> rfl
@[simp] theorem observe_rspValid (s : State) : (observe s).rspValid = s.rspValid := by unfold observe; split <;> rfl
@[simp] theorem observe_busy (s : State) : (observe s).busy = s.busy := by unfold observe; split <;> rfl
@[simp] theorem observe_curCmd (s : State) : (observe s).curCmd = s.curCmd := by unfold observe; split <;> rfl
@[simp] theorem observe_curA (s : State) : (observe s).curA = s.curA := by unfold observe; split <;> rfl
@[simp] theorem observe_curB (s : State) : (observe s).curB = s.curB := by unfold observe; split <;> rfl
@[simp] theorem observe_wasReset (s : State) : (observe s).wasReset = s.wasReset := by unfold observe; split <;> rfl
@[simp] theorem observe_wait (s : State) : (observe s).wait = s.wait := by unfold observe; split <;> rfl
@[simp] theorem observe_accepted (s : State) : (observe s).accepted = s.accepted := by unfold observe; split <;> rfl
@[simp] theorem observe_draws (s : State) : (observe s).draws = s.draws := by unfold observe; split <;> rfl
@[simp] theorem observe_script (s : State) : (observe s).script = s.script := by unfold observe; split <;> rfl
@[simp] theorem observe_seen (s : State) : (observe s).seen = s.seen := by unfold observe; split <;> rfl
theorem observe_results (s : State) : (observe s).results =
    if s.wasReset && s.rspValid then noteResponse s.accepted s.rsp s.results else s.results := by unfold observe; split <;> rfl

/-! ### Responses -/

@[simp] theorem ofWord_result (y : Word) : (Response.ofWord y).result = y := rfl
@[simp] theorem ofWord_err (y : Word) : (Response.ofWord y).err = 0 := rfl
@[simp] theorem ofWord_str (y : Word) : (Response.ofWord y).str = strOfChars [] := rfl
@[simp] theorem ofWord_len (y : Word) : (Response.ofWord y).len = 0 := rfl
@[simp] theorem ofChars_result (cs : List Byte) : (Response.ofChars cs).result = 0 := rfl
@[simp] theorem ofChars_err (cs : List Byte) : (Response.ofChars cs).err = 0 := rfl
@[simp] theorem ofChars_str (cs : List Byte) : (Response.ofChars cs).str = strOfChars cs := rfl
@[simp] theorem ofChars_len (cs : List Byte) : (Response.ofChars cs).len = BitVec.ofNat 4 cs.length := rfl
@[simp] theorem ofError_result (e : ErrKind) : (Response.ofError e).result = 0 := rfl
@[simp] theorem ofError_err (e : ErrKind) : (Response.ofError e).err = e.code := rfl
@[simp] theorem ofError_str (e : ErrKind) : (Response.ofError e).str = strOfChars [] := rfl
@[simp] theorem ofError_len (e : ErrKind) : (Response.ofError e).len = 0 := rfl
@[simp] theorem ofUnit_ok (y : Word) : Response.ofUnit (.ok y) = Response.ofWord y := rfl
@[simp] theorem ofUnit_error (e : ErrKind) : Response.ofUnit (.error e) = Response.ofError e := rfl

end Sys2Proof.Machine
end

