-- ==== Sys2Proof/Laws/Ops.lean ====
section
/-! SUPPORT. One lemma for each shared operation that says what it can do; later proofs cite these and unfold nothing. -/

namespace Sys2Proof.Machine

/-- Character `i` of the buffer is character `i` of the string, and zero past its end. -/
theorem strOfChars_get (cs : List Byte) (i : Fin 16) : (strOfChars cs)[i] = cs.getD i 0 := by
  fin_cases i <;> rfl

/-- The cleared buffer and the empty string's buffer are the same. -/
theorem cleared_str : Response.cleared.str = strOfChars [] := rfl

/-- A unit's answer always completes the request, with the response of the answer. -/
theorem completeUnit_next (r : Except ErrKind Word) (s : State) :
    completeUnit r s = .next (complete (Response.ofUnit r) s) := by
  cases r <;> rfl

/-- The wrapped sum is the sum of the words. -/
theorem wrapAdd_eq (a b : Word) : wrapAdd a b = a + b := by
  apply BitVec.eq_of_toInt_eq
  simp [wrapAdd, BitVec.toInt_add]

/-- The wrapped difference is the difference of the words. -/
theorem wrapSub_eq (a b : Word) : wrapSub a b = a - b := by
  apply BitVec.eq_of_toInt_eq
  simp [wrapSub, BitVec.toInt_sub]

/-- Half-up rounding on the guard digit is `floor((g + 5) / 10)` (rule R174). -/
theorem fmtRounded_eq (g : Nat) : fmtRounded g = (g + 5) / 10 := by
  unfold fmtRounded
  split <;> omega

/-- The magnitude is its two parts (rule R172). -/
theorem integerPart_fractionPart (a : Word) :
    integerPart a * 2 ^ Config.fractionalBits + fractionPart a = magnitude a := by
  exact Nat.div_add_mod' _ _

/-- What an operation reads and what it answers, for each command: `exec` is a completion with this response. -/
theorem exec_next (i : Instr) (s : State) :
    ∃ r, exec i s = .next (complete r s) ∧
      r = match i with
        | .adds _ => Response.ofWord (addsWord s.curA s.curB)
        | .subs _ => Response.ofWord (subsWord s.curA s.curB)
        | .mul _ => Response.ofWord (mulWord s.curA s.curB)
        | .div _ => Response.ofUnit (divWord s.curA s.curB)
        | .f2q _ => Response.ofUnit (f2qWord Config.denormClampExp s.curA)
        | .q2f _ => Response.ofWord (q2fWord s.curA)
        | .fmt p => Response.ofChars (fmtChars Config.decimalPoint s.curA (precField p)) := by
  cases i with
  | div p => exact ⟨_, completeUnit_next _ s, rfl⟩
  | f2q p => exact ⟨_, completeUnit_next _ s, rfl⟩
  | _ => exact ⟨_, rfl, rfl⟩

/-- The host's move changes its script and what it has read alone. -/
theorem hostMove_keeps {s h : State} {p : Pins} (hs : hostMove s = .ok (p, h)) :
    h.rsp = s.rsp ∧ h.rspValid = s.rspValid ∧ h.busy = s.busy ∧ h.curCmd = s.curCmd ∧ h.curA = s.curA ∧ h.curB = s.curB ∧
      h.wasReset = s.wasReset ∧ h.wait = s.wait ∧ h.draws = s.draws ∧ h.accepted = s.accepted ∧ h.results = s.results := by
  unfold hostMove at hs
  split at hs
  · cases hs; simp
  · cases hs; simp
  · split at hs
    · cases hs; split <;> simp
    · cases hs
    · cases hs
  · split at hs
    · cases hs; simp
    · split at hs
      · cases hs; simp
      · cases hs
  · split at hs
    · cases hs; simp
    · cases hs

/-- The host at an edge changes its own fields alone: its script, what it has read and what it knows of the requests. -/
theorem hostEdge_keeps {s h : State} {p : Pins} (hs : hostEdge s = .ok (p, h)) :
    h.rsp = s.rsp ∧ h.rspValid = s.rspValid ∧ h.busy = s.busy ∧ h.curCmd = s.curCmd ∧ h.curA = s.curA ∧ h.curB = s.curB ∧
      h.wasReset = s.wasReset ∧ h.wait = s.wait ∧ h.draws = s.draws ∧ h.accepted = s.accepted ∧
      h.results = (observe s).results := by
  simpa using hostMove_keeps hs

/-- Noting a response keeps those known, and adds at most the one noted. -/
theorem mem_noteResponse {n : Nat} {r : Response} {known : List NumberedResponse} {c : NumberedResponse}
    (hc : c ∈ noteResponse n r known) : c ∈ known ∨ (c = ⟨n, r⟩ ∧ ∀ d ∈ known, d.request ≠ n) := by
  unfold noteResponse at hc
  split at hc
  · exact .inl hc
  · rename_i hn
    simp only [List.mem_append, List.mem_singleton] at hc
    exact hc.imp_right fun h => ⟨h, fun d hd he => hn (List.any_eq_true.2 ⟨d, hd, by simp [he]⟩)⟩

/-- An operand `$k` that has a word has it from a response known for request `k`. -/
theorem resolve_result_ok {known : List NumberedResponse} {k : Nat} {w : Word} (hr : resolve known (.result k) = .ok w) :
    k ≠ 0 ∧ ∃ c ∈ known, c.request = k ∧ c.response.result = w := by
  simp only [resolve] at hr
  split at hr
  · cases hr
  · rename_i hk
    split at hr
    · rename_i c hc
      cases hr
      exact ⟨hk, c, List.mem_of_find?_eq_some hc, by simpa using List.find?_some hc, rfl⟩
    · cases hr

/-- A read that has a value gives the response registers, after a reset and while the response is valid. -/
theorem sample_ok {s : State} {r : Response} (hs : sample s = .ok r) :
    r = s.rsp ∧ s.wasReset = true ∧ s.rspValid = true ∧ s.rsp.err ≠ ErrKind.invalidArgument.code := by
  unfold sample at hs
  split at hs
  · cases hs
  · split at hs
    · cases hs
    · split at hs
      · cases hs
      · cases hs
        simp_all

/-- What a step can do: the host's move has no value, or the edge is one of the five. -/
theorem step_cases (s : State) :
    (∃ f, hostEdge s = .error f ∧ step s = .fault f) ∨
    ∃ p h, hostEdge s = .ok (p, h) ∧
      ((p.rst = true ∧ step s = .next (resetEdge h)) ∨
       (p.rst = false ∧ s.busy = true ∧ s.wait ≠ 0 ∧ step s = .next (waitEdge h)) ∨
       (p.rst = false ∧ s.busy = false ∧ p.reqValid = true ∧ step s = .next (acceptRequest p h)) ∨
       (p.rst = false ∧ s.busy = false ∧ p.reqValid = false ∧ step s = .next h) ∨
       (p.rst = false ∧ s.busy = true ∧ s.wait = 0 ∧
         ((∃ i, decode s.curCmd = .instr i ∧ step s = exec i h) ∨
          (∃ w, decode s.curCmd = .illegal w ∧ step s = .next (complete (Response.ofError .illegalCommand) h))))) := by
  unfold step
  cases hh : hostEdge s with
  | error f => exact .inl ⟨f, rfl, rfl⟩
  | ok ph =>
    obtain ⟨p, h⟩ := ph
    refine .inr ⟨p, h, rfl, ?_⟩
    unfold edgeKind
    cases hr : p.rst
    · cases hb : s.busy
      · cases hv : p.reqValid <;> simp [hr, hv]
      · by_cases hw : s.wait = 0
        · cases hd : decode s.curCmd <;> simp [hr, hw, raiseError]
        · simp [hr, hw]
    · simp [hr]

/-- No step is the state itself. -/
@[simp] theorem run_zero (s : State) : core.run 0 s = .next s := rfl

/-- A run goes on from the state its first step answers. -/
theorem run_succ_of_next {s t : State} (k : Nat) (h : step s = .next t) : core.run (k + 1) s = core.run k t := by
  have hc : core.step s = .next t := h
  simp only [Host.Core.run, hc]

/-- A run stops where its first step faults. -/
theorem run_succ_of_fault {s : State} {f : Fault} (k : Nat) (h : step s = .fault f) : core.run (k + 1) s = .fault f := by
  have hc : core.step s = .fault f := h
  simp only [Host.Core.run, hc]

end Sys2Proof.Machine
end

