-- ==== Sys2Proof/Laws/PerInstr.lean ====
section
/-! SUPPORT. Facts about every command as syntax, one lemma for each constructor. -/

namespace Sys2Proof.Laws.Encoding

/-- The three fields of a command's word are its `OP`, its `PREC` masked to 3 bits, and zero (rule R61). -/
def Statement (i : Instr) : Prop :=
  cmdOp (encode i) = i.op ∧ cmdPrec (encode i) = BitVec.ofNat 3 i.prec ∧ cmdRsv (encode i) = 0

/-- The fields of a concatenated word are its parts. -/
theorem fields_of_append (p o : BitVec 3) :
    cmdOp (0#2 ++ p ++ o : BitVec (2 + 3 + 3)) = o ∧ cmdPrec (0#2 ++ p ++ o : BitVec (2 + 3 + 3)) = p ∧
      cmdRsv (0#2 ++ p ++ o : BitVec (2 + 3 + 3)) = 0 := by
  revert p o
  decide

theorem adds (p : Nat) : Statement (.adds p) := fields_of_append _ _
theorem subs (p : Nat) : Statement (.subs p) := fields_of_append _ _
theorem mul (p : Nat) : Statement (.mul p) := fields_of_append _ _
theorem div (p : Nat) : Statement (.div p) := fields_of_append _ _
theorem f2q (p : Nat) : Statement (.f2q p) := fields_of_append _ _
theorem q2f (p : Nat) : Statement (.q2f p) := fields_of_append _ _
theorem fmt (p : Nat) : Statement (.fmt p) := fields_of_append _ _

end Sys2Proof.Laws.Encoding
end

