-- ==== Sys2Proof/Tests/Slice0.lean ====
section
/-! SUPPORT. The model's own tests. Expected results are the spec's: the vectors of spec/95_test_vectors.md, the words of
rule R61's layout, the forms of rules R68 and R69; and one witness for the hypotheses of each statement. -/

namespace Sys2Proof.Tests

open Sys2Proof.Machine

/-! ### Helpers -/

/-- A captured request that is due at the next edge. -/
def due (cmd : Byte) (a b : Word) : State :=
  { State.reset with curCmd := cmd, curA := a, curB := b, busy := true }

/-- A host's state after a reset, with these moves to make. -/
def hosting (script : List HostMove) : State := { State.reset with script := script }

/-- The next state, if the step answers one. -/
def nextOf : Host.Outcome State Fault Refusal → Option State
  | .next t => some t
  | _ => none

/-- The result and the code a completion leaves. -/
def resultOf (o : Host.Outcome State Fault Refusal) : Option (Word × BitVec 3) :=
  (nextOf o).map fun t => (t.rsp.result, t.rsp.err)

/-- The characters a completion leaves. -/
def charsOf (o : Host.Outcome State Fault Refusal) : Option (List Byte) :=
  (nextOf o).map fun t => responseChars t.rsp

/-! ### Well-formedness: each check refuses an ill-formed term -/

theorem test_wf_precision_over_field : (Instr.fmt 8).wellFormed = false := by decide
theorem test_wf_hex_no_digits : (Arg.hex []).wellFormed 1 = false := by decide
theorem test_wf_hex_nine_digits : (Arg.hex [1, 2, 3, 4, 5, 6, 7, 8, 9]).wellFormed 1 = false := by decide
theorem test_wf_dec_no_whole : (Arg.dec false [] [5]).wellFormed 1 = false := by decide
theorem test_wf_dec_not_a_raw_word : (Arg.dec false [0] [1]).wellFormed 1 = false := by decide
theorem test_wf_dec_too_large : (Arg.dec false [3, 2, 7, 6, 8] []).wellFormed 1 = false := by decide
theorem test_wf_dec_least : (Arg.dec true [3, 2, 7, 6, 8] []).wellFormed 1 = true := by decide
theorem test_wf_result_zero : (Arg.res 0).wellFormed 3 = false := by decide
theorem test_wf_result_of_itself : (Arg.res 3).wellFormed 3 = false := by decide
theorem test_wf_line_precision : (Line.fmt (.res 1) 8).wellFormed 2 = false := by decide
theorem test_wf_req_wide_command : (Line.req [1, 0, 0] [0] [0]).wellFormed 1 = false := by decide
theorem test_wf_listing_bad_second_line : listingWellFormed 1 [.q2f (.hex [1]), .q2f (.res 2)] = false := by decide

/-! ### Decoding: words written out from rule R61 (`RSV` `PREC` `OP`) -/

theorem test_decode_adds : decode 0b00_000_000#8 = .instr (.adds 0) := by decide
theorem test_decode_subs : decode 0b00_001_001#8 = .instr (.subs 1) := by decide
theorem test_decode_mul : decode 0b00_010_010#8 = .instr (.mul 2) := by decide
theorem test_decode_div : decode 0b00_011_011#8 = .instr (.div 3) := by decide
theorem test_decode_f2q : decode 0b00_100_100#8 = .instr (.f2q 4) := by decide
theorem test_decode_q2f : decode 0b00_101_101#8 = .instr (.q2f 5) := by decide
theorem test_decode_fmt : decode 0b00_110_110#8 = .instr (.fmt 6) := by decide
theorem test_decode_reserved_op : decode 0b00_000_111#8 = .illegal .reservedOp := by decide
theorem test_decode_reserved_bits : decode 0b10_000_000#8 = .illegal .reservedBits := by decide
theorem test_encode_fmt : encode (.fmt 6) = 0b00_110_110#8 := by decide
theorem test_table_word_fmt : decodeTableWord 8 0x0E = some (.fmt 1) := by decide
/-- No word is owned by two rows: they differ in a bit that both fix. -/
theorem test_table_rows_disjoint : opcodeTable.Pairwise (fun r q => r.pattern &&& q.mask ≠ q.pattern &&& r.mask) := by decide

/-! ### Results: the rows of spec/95_test_vectors.md named in each theorem -/

/-- ADDS-7. -/
theorem test_adds_one_past_min : resultOf (exec (.adds 0) (due 0x00 0xBFFFFFFF 0xC0000000)) = some (0x80000000, 0) := by decide
/-- ADDS-4. -/
theorem test_adds_signs_differ : resultOf (exec (.adds 0) (due 0x00 0x7FFFFFFF 0x80000000)) = some (0xFFFFFFFF, 0) := by decide
/-- SUBS-2: the literal rule of conflict C1 would saturate. -/
theorem test_subs_small_negative : resultOf (exec (.subs 0) (due 0x01 1 2)) = some (0xFFFFFFFF, 0) := by decide
/-- SUBS-3. -/
theorem test_subs_zero_minus_min : resultOf (exec (.subs 0) (due 0x01 0 0x80000000)) = some (0x7FFFFFFF, 0) := by decide
/-- MUL-5: the floor. -/
theorem test_mul_floors : resultOf (exec (.mul 0) (due 0x02 0xFFFFFFFF 1)) = some (0xFFFFFFFF, 0) := by decide
/-- MUL-7: the low 32 bits. -/
theorem test_mul_wraps : resultOf (exec (.mul 0) (due 0x02 0x7FFFFFFF 0x7FFFFFFF)) = some (0xFFFF0000, 0) := by decide
/-- DIV-3: toward zero. -/
theorem test_div_truncates : resultOf (exec (.div 0) (due 0x03 0xFFFF0000 0x00030000)) = some (0xFFFFAAAB, 0) := by decide
/-- DIV-7. -/
theorem test_div_zero_by_zero : resultOf (exec (.div 0) (due 0x03 0 0)) = some (0, 5) := by decide
/-- F2Q-18. -/
theorem test_f2q_negative_truncates : resultOf (exec (.f2q 0) (due 0x04 0xBDCCCCCD 0)) = some (0xFFFFE667, 0) := by decide
/-- F2Q-20. -/
theorem test_f2q_most_negative : resultOf (exec (.f2q 0) (due 0x04 0xC6FFFFFF 0)) = some (0x80000080, 0) := by decide
/-- Q2F-18: truncated, not rounded. -/
theorem test_q2f_truncates : resultOf (exec (.q2f 0) (due 0x05 0x12345678 0)) = some (0x4591A2B3, 0) := by decide
/-- Q2F-7. -/
theorem test_q2f_min : resultOf (exec (.q2f 0) (due 0x05 0x80000000 0)) = some (0xC7000000, 0) := by decide
/-- FMT-30: the longest output. -/
theorem test_fmt_longest : charsOf (exec (.fmt 7) (due 0x3E 0x80000080 0)) =
    some [0x2D, 0x33, 0x32, 0x37, 0x36, 0x37, 0x2E, 0x39, 0x39, 0x38, 0x30, 0x34, 0x36, 0x39] := by decide
/-- FMT-12: the carry. -/
theorem test_fmt_carries : charsOf (exec (.fmt 2) (due 0x16 0x7FFFFFFF 0)) = some [0x33, 0x32, 0x37, 0x36, 0x38] := by decide
/-- CMD-2, and what the block is after it. -/
theorem test_illegal_command : (nextOf (step (due 0x40 0x00010000 0x00010000))).map (fun t => (t.rsp.err, t.busy, t.rspValid)) =
    some (7, false, true) := by decide
/-- CMD-7, fetched as a table word, as the first step after reset. -/
theorem test_fetch_word : charsOf (step ({ State.reset with curA := 0x000C8000, curB := 0x12345678 }.withFetchWord 8 0x3E)) =
    some [0x31, 0x32, 0x2E, 0x35] := by decide
/-- The `rsp_str` value under the FMT table of spec/95_test_vectors.md. -/
theorem test_rsp_str : (nextOf (exec (.fmt 1) (due 0x0E 0x000C8000 0))).map (fun t => (outPorts t).rspStr) =
    some 0x000000000000000000000000352E3231 := by decide

/-! ### The assembler: programs P1 and P3 of spec/95_test_vectors.md, and rule R68 -/

/-- P1, lines 1 and 2. -/
theorem test_assemble_p1 : assemble 1 [.div (.hex [0, 0, 0, 7, 0, 0, 0, 0]) (.hex [0, 0, 0, 2, 0, 0, 0, 0]),
      .mul (.res 1) (.hex [0, 0, 0, 3, 0, 0, 0, 0])] =
    some [⟨0x03, .word 0x00070000, .word 0x00020000⟩, ⟨0x02, .result 1, .word 0x00030000⟩] := by decide
/-- P1, all four lines: the response of the last. -/
theorem test_p1_prints : (listingResponses [] [⟨0x03, .word 0x00070000, .word 0x00020000⟩, ⟨0x02, .result 1, .word 0x00030000⟩,
      ⟨0x05, .result 2, .word 0⟩, ⟨0x0E, .result 2, .word 0⟩]).map (fun rs => rs.map fun r => (r.result, r.err, r.len)) =
    some [(0x00038000, 0, 0), (0x000A8000, 0, 0), (0x41280000, 0, 0), (0, 0, 4)] := by decide
/-- Rule R68: `#-0.25` is the raw word `u32(-0.25 * 2^16)`. -/
theorem test_decimal_operand : readLine ['F', 'M', 'T', ' ', '#', '-', '0', '.', '2', '5', ',', ' ', '2'] =
    some (.fmt (.dec true [0] [2, 5]) 2) ∧ decWord true [0] [2, 5] = some 0xFFFFC000 := by decide
/-- P1, line 1, as text with its comment. -/
theorem test_read_line : readLine ['D', 'I', 'V', ' ', ' ', '0', 'x', '7', ',', ' ', '$', '1', ' ', ';', ' ', 'x'] =
    some (.div (.hex [7]) (.res 1)) := by decide

/-! ### Witnesses: a state and operands that meet all the hypotheses of a statement together -/

/-- A response that keeps the invariant, with a string of full length. -/
def fullResponse : Response := Response.ofChars [0x2D, 0x33, 0x32, 0x37, 0x36, 0x37, 0x2E, 0x39, 0x39, 0x38, 0x30, 0x34, 0x36, 0x39]

theorem fullResponse_inv : fullResponse.Inv := by unfold Response.Inv; decide

/-- A state after one request, with a valid response of full length that the host has read once, and these moves to make. -/
def answered (script : List HostMove) : State :=
  { State.reset with
    rsp := fullResponse, rspValid := true, seen := [fullResponse], accepted := 1, results := [⟨1, fullResponse⟩]
    script := script }

theorem answered_inv (script : List HostMove) : (answered script).Inv :=
  ⟨fullResponse_inv, by simp [answered, State.reset], by simp [answered, fullResponse_inv],
    by simp [State.ResultsInv, answered, State.reset, fullResponse_inv]⟩

theorem test_witness_DecodeOfEncode : (Instr.fmt 7).wellFormed = true ∧ (Instr.adds 0).wellFormed = true := by decide
theorem test_witness_EncodeOfDecode : decode 0x3E#8 = .instr (.fmt 7) := by decide
theorem test_witness_DecoderFollowsOpcodeTable :
    ⟨"FMT", 0x06, 0xC7⟩ ∈ opcodeTable ∧ TableRow.owns ⟨"FMT", 0x06, 0xC7⟩ 0x3E = true ∧
      TableRow.owns ⟨"FMT", 0x06, 0xC7⟩ 0x3F = false := by decide
theorem test_witness_IllegalCommandReportsCode7 :
    (∃ p h, hostEdge (due 0x3F 1 2) = .ok (p, h) ∧ p.rst = false ∧ (due 0x3F 1 2).busy = true ∧ (due 0x3F 1 2).wait = 0 ∧
      cmdOp (due 0x3F 1 2).curCmd = 0b111#3) ∧
    (∃ p h, hostEdge (due 0x40 1 2) = .ok (p, h) ∧ p.rst = false ∧ (due 0x40 1 2).busy = true ∧ (due 0x40 1 2).wait = 0 ∧
      cmdRsv (due 0x40 1 2).curCmd ≠ 0b00#2) :=
  ⟨⟨_, _, rfl, rfl, rfl, rfl, by decide⟩, ⟨_, _, rfl, rfl, rfl, rfl, by decide⟩⟩
theorem test_witness_StepRunsDecodedCommand :
    ∃ p h i, hostEdge (due 0x3E 1 2) = .ok (p, h) ∧ p.rst = false ∧ (due 0x3E 1 2).busy = true ∧ (due 0x3E 1 2).wait = 0 ∧
      decode (due 0x3E 1 2).curCmd = .instr i :=
  ⟨_, _, .fmt 7, rfl, rfl, rfl, rfl, by decide⟩
theorem test_witness_CompletionIsExecute :
    ∃ p h, hostEdge (due 0xFF 1 2) = .ok (p, h) ∧ p.rst = false ∧ (due 0xFF 1 2).busy = true ∧ (due 0xFF 1 2).wait = 0 :=
  ⟨_, _, rfl, rfl, rfl, rfl⟩
/-- A reset edge with a request in flight and another on the port. -/
theorem test_witness_ResetEdgeClearsResponse :
    ∃ p h, hostEdge { due 0x00 1 2 with script := [.drive { rst := true, reqValid := true, reqCmd := 1, reqA := 3, reqB := 4 }] } =
      .ok (p, h) ∧ p.rst = true :=
  ⟨_, _, rfl, rfl⟩
theorem test_witness_CapturedRequestUnreadWhileIdle :
    (∃ s u : State, s ≠ u ∧ s.busy = false ∧ eraseCaptured s = eraseCaptured u ∧ ∃ t, step s = .next t) ∧
    (∃ s u : State, s ≠ u ∧ s.busy = false ∧ eraseCaptured s = eraseCaptured u ∧ ∃ f, step s = .fault f) :=
  ⟨⟨hosting [], { hosting [] with curA := 1 }, by decide, rfl, rfl, _, rfl⟩,
   ⟨hosting [.read], { hosting [.read] with curA := 1 }, by decide, rfl, rfl, _, rfl⟩⟩
theorem test_witness_AcceptCapturesRequest :
    ∃ p h, hostEdge (hosting [.hold 0x03 (.word 7) (.word 2)]) = .ok (p, h) ∧ p.rst = false ∧ p.reqValid = true ∧
      (hosting [.hold 0x03 (.word 7) (.word 2)]).busy = false :=
  ⟨_, _, rfl, rfl, rfl, rfl⟩
/-- A held request at a busy block, and a reset of one. -/
theorem test_witness_BusyBlockAcceptsNothing :
    (∃ t, step { due 0x00 1 2 with wait := 1, script := [.hold 0x01 (.word 3) (.word 4)] } = .next t) ∧
    (∃ t, step { due 0x00 1 2 with script := [.drive { rst := true, reqValid := false, reqCmd := 0, reqA := 0, reqB := 0 }] } =
      .next t) :=
  ⟨⟨_, rfl⟩, ⟨_, rfl⟩⟩
theorem test_witness_ResponsesHoldBetweenCompletions :
    ∃ p h t, hostEdge { due 0x00 1 2 with wait := 1 } = .ok (p, h) ∧ p.rst = false ∧
      ¬({ due 0x00 1 2 with wait := 1 }.busy = true ∧ { due 0x00 1 2 with wait := 1 }.wait = 0) ∧
      step { due 0x00 1 2 with wait := 1 } = .next t :=
  ⟨_, _, _, rfl, rfl, by decide, rfl⟩
theorem test_witness_IdleEdgeChangesNothing :
    ∃ p h, hostEdge (hosting []) = .ok (p, h) ∧ p.rst = false ∧ p.reqValid = false ∧ (hosting []).busy = false :=
  ⟨_, _, rfl, rfl, rfl, rfl⟩
theorem test_witness_NoCompletionBeforeLatency :
    ∃ p h t k, hostEdge (hosting [.drive (Pins.request 0x03 7 2), .hold 0x00 (.word 1) (.word 2)]) = .ok (p, h) ∧ p.rst = false ∧
      p.reqValid = true ∧ (hosting [.drive (Pins.request 0x03 7 2), .hold 0x00 (.word 1) (.word 2)]).busy = false ∧
      step (hosting [.drive (Pins.request 0x03 7 2), .hold 0x00 (.word 1) (.word 2)]) = .next t ∧
      (∀ m ∈ t.script, m.quiet = true) ∧ k < Config.fxuLatency (cmdOp p.reqCmd) :=
  ⟨_, _, _, 0, rfl, rfl, rfl, rfl, rfl, by decide, Nat.succ_pos _⟩
theorem test_witness_CapturedRequestCompletes :
    { due 0x3E 1 2 with wait := 3, script := [.drive Pins.idle, .hold 0x00 (.word 1) (.word 2)] }.busy = true ∧
    ∀ m ∈ { due 0x3E 1 2 with wait := 3, script := [.drive Pins.idle, .hold 0x00 (.word 1) (.word 2)] }.script, m.quiet = true :=
  ⟨rfl, by decide⟩
theorem test_witness_ListingCollectsExecuteResponses :
    ∃ rs, listingResponses [] [⟨0x00, .word 1, .word 2⟩, ⟨0x06, .result 1, .word 0⟩] = some rs ∧
      (hosting (listingScript [⟨0x00, .word 1, .word 2⟩, ⟨0x06, .result 1, .word 0⟩])).script =
        listingScript [⟨0x00, .word 1, .word 2⟩, ⟨0x06, .result 1, .word 0⟩] ∧
      (hosting (listingScript [⟨0x00, .word 1, .word 2⟩, ⟨0x06, .result 1, .word 0⟩])).seen = [] ∧
      (hosting (listingScript [⟨0x00, .word 1, .word 2⟩, ⟨0x06, .result 1, .word 0⟩])).results = [] ∧
      (hosting (listingScript [⟨0x00, .word 1, .word 2⟩, ⟨0x06, .result 1, .word 0⟩])).accepted = 0 ∧
      (hosting (listingScript [⟨0x00, .word 1, .word 2⟩, ⟨0x06, .result 1, .word 0⟩])).busy = false ∧
      (hosting (listingScript [⟨0x00, .word 1, .word 2⟩, ⟨0x06, .result 1, .word 0⟩])).wasReset = true :=
  ⟨_, rfl, rfl, rfl, rfl, rfl, rfl, rfl⟩
/-- `$2` where request 1 alone is known, `$1` where it is known, and a valid response not noted yet. -/
theorem test_witness_ResultOperandIsOfItsRequest :
    (∀ c ∈ (observe (answered [.hold 0x00 (.result 2) (.word 0)])).results, c.request ≠ 2) ∧
    ((answered [.hold 0x00 (.result 1) (.word 0)]).Inv ∧ (answered [.hold 0x00 (.result 1) (.word 0)]).busy = false ∧
      ⟨1, fullResponse⟩ ∈ (observe (answered [.hold 0x00 (.result 1) (.word 0)])).results) ∧
    (∃ s : State, s.Inv ∧ s.wasReset = true ∧ s.rspValid = true ∧ s.results = []) :=
  ⟨by decide, ⟨answered_inv _, rfl, by decide⟩,
    { answered [] with results := [] }, ⟨fullResponse_inv, by decide, by simp [answered, fullResponse_inv],
      by simp [State.ResultsInv]⟩, rfl, rfl, rfl⟩
theorem test_witness_StepKeepsResponseInvariant :
    (answered [.hold 0x00 (.result 1) (.word 2)]).Inv ∧ ∃ t, step (answered [.hold 0x00 (.result 1) (.word 2)]) = .next t :=
  ⟨answered_inv _, _, rfl⟩
theorem test_witness_RespectfulHostRunsSafely :
    (answered [.await, .drive Pins.idle, .hold 0x03 (.word 1) (.word 0)]).Inv ∧
      (answered [.await, .drive Pins.idle, .hold 0x03 (.word 1) (.word 0)]).wasReset = true ∧
      ∀ m ∈ (answered [.await, .drive Pins.idle, .hold 0x03 (.word 1) (.word 0)]).script, m.respectful = true :=
  ⟨answered_inv _, rfl, by decide⟩
theorem test_witness_ReadsWithoutValueFault :
    ((State.powerUp [.read]).wasReset = false ∧ (State.powerUp [.read]).script = .read :: []) ∧
    ((State.powerUp [.await]).wasReset = false ∧ (State.powerUp [.await]).script = .await :: []) ∧
    ((hosting [.read]).wasReset = true ∧ (hosting [.read]).rspValid = false ∧ (hosting [.read]).script = .read :: []) ∧
    ((hosting [.await]).wasReset = true ∧ (hosting [.await]).rspValid = false ∧ (hosting [.await]).script = .await :: []) :=
  ⟨⟨rfl, rfl⟩, ⟨rfl, rfl⟩, ⟨rfl, rfl, rfl⟩, ⟨rfl, rfl, rfl⟩⟩
theorem test_witness_ReadingClearsNothing :
    (answered [.await, .read]).Inv ∧ (answered [.await, .read]).wasReset = true ∧ (answered [.await, .read]).rspValid = true ∧
      (answered [.await, .read]).script = .await :: .read :: [] :=
  ⟨answered_inv _, rfl, rfl, rfl⟩
theorem test_witness_ResponseDependsOnlyOnRequest :
    due 0x00 1 2 ≠ { answered [] with curA := 1, curB := 2 } ∧
      (due 0x00 1 2).curA = { answered [] with curA := 1, curB := 2 }.curA ∧
      (due 0x00 1 2).curB = { answered [] with curA := 1, curB := 2 }.curB := by decide
theorem test_witness_UnaryCommandsIgnoreB :
    (Instr.f2q 0).readsB = false ∧ (Instr.q2f 0).readsB = false ∧ (Instr.fmt 3).readsB = false := by decide
/-- A failing command and an illegal command word. -/
theorem test_witness_FailureIsAtomic :
    (∃ p h t, hostEdge (due 0x04 0x7FC00000 0) = .ok (p, h) ∧ p.rst = false ∧ (due 0x04 0x7FC00000 0).busy = true ∧
      (due 0x04 0x7FC00000 0).wait = 0 ∧ step (due 0x04 0x7FC00000 0) = .next t ∧ t.rsp.err ≠ 0) ∧
    (∃ p h t, hostEdge (due 0x07 1 2) = .ok (p, h) ∧ p.rst = false ∧ (due 0x07 1 2).busy = true ∧
      (due 0x07 1 2).wait = 0 ∧ step (due 0x07 1 2) = .next t ∧ t.rsp.err ≠ 0) :=
  ⟨⟨_, _, _, rfl, rfl, rfl, rfl, rfl, by decide⟩, ⟨_, _, _, rfl, rfl, rfl, rfl, rfl, by decide⟩⟩
theorem test_witness_ReportableCodes :
    (∃ t, exec (.div 0) (due 0x03 1 0) = .next t ∧ t.rsp.err = 5) ∧ (decode 0xC6#8).toOption = none :=
  ⟨⟨_, rfl, by decide⟩, by decide⟩
theorem test_witness_DivKeepsLowBitsOfTruncation : (due 0x03 0x80000000 0xFFFFFFFF).curB ≠ 0 := by decide
theorem test_witness_DivByZeroReportsCode5 : (due 0x03 0x80000000 0).curB = 0x00000000#32 := by decide
/-- `MUL` at both ends of the range. -/
theorem test_witness_ProductWithinOneUnit :
    (∃ exact : ℚ, exact = ((0x80000000#32).toInt * (0x00010000#32).toInt : ℚ) / 2 ^ 16 ∧ -2 ^ 31 ≤ exact ∧ exact ≤ 2 ^ 31 - 1) ∧
    (∃ exact : ℚ, exact = ((0x7FFFFFFF#32).toInt * (0x00010000#32).toInt : ℚ) / 2 ^ 16 ∧ -2 ^ 31 ≤ exact ∧ exact ≤ 2 ^ 31 - 1) := by
  have h1 : (0x80000000#32).toInt = -2147483648 := by decide
  have h2 : (0x00010000#32).toInt = 65536 := by decide
  have h3 : (0x7FFFFFFF#32).toInt = 2147483647 := by decide
  refine ⟨⟨_, rfl, ?_, ?_⟩, ⟨_, rfl, ?_, ?_⟩⟩ <;> norm_num [h1, h2, h3]
/-- `DIV` at both ends of the range. -/
theorem test_witness_QuotientWithinOneUnit :
    (∃ (y : Word) (exact : ℚ), (0x00010000#32 : Word) ≠ 0 ∧ divWord 0x80000000#32 0x00010000#32 = .ok y ∧
      exact = ((0x80000000#32).toInt * 2 ^ 16 : ℚ) / (0x00010000#32).toInt ∧ -2 ^ 31 ≤ exact ∧ exact ≤ 2 ^ 31 - 1) ∧
    (∃ (y : Word) (exact : ℚ), (0x00010000#32 : Word) ≠ 0 ∧ divWord 0x7FFFFFFF#32 0x00010000#32 = .ok y ∧
      exact = ((0x7FFFFFFF#32).toInt * 2 ^ 16 : ℚ) / (0x00010000#32).toInt ∧ -2 ^ 31 ≤ exact ∧ exact ≤ 2 ^ 31 - 1) := by
  have h1 : (0x80000000#32).toInt = -2147483648 := by decide
  have h2 : (0x00010000#32).toInt = 65536 := by decide
  have h3 : (0x7FFFFFFF#32).toInt = 2147483647 := by decide
  refine ⟨⟨_, _, by decide, rfl, rfl, ?_, ?_⟩, ⟨_, _, by decide, rfl, rfl, ?_, ?_⟩⟩ <;> norm_num [h1, h2, h3]
theorem test_witness_MulDivIdentities : (0x80000000#32 : Word) ≠ 0 := by decide
/-- The rows of rule R141's table at the ends of each exponent range. -/
theorem test_witness_F2qOutcomeTable :
    [0x7F800000#32, 0xFF800001#32, 0x80000000#32, 0x007FFFFF#32, 0x00800000#32, 0xB87FFFFF#32, 0x38800000#32, 0xC6FFFFFF#32,
      0x47000000#32, 0x7F7FFFFF#32].map (fun f => (f32Exp f, f32Mant f)) =
    [(255, 0), (255, 1), (0, 0), (0, 0x7FFFFF), (1, 0), (112, 0x7FFFFF), (113, 0), (141, 0x7FFFFF), (142, 0), (254, 0x7FFFFF)] := by
  decide
theorem test_witness_F2qTruncatesTowardZero :
    [0xB8800000#32, 0x46FFFFFF#32, 0x80800000#32, 0x377FFFFF#32].map f32Exp = [113, 141, 1, 110] := by decide
theorem test_witness_OutOfRangeFromMagnitude32768 : [0x00800000#32, 0x46FFFFFF#32, 0xC7000000#32, 0x7F7FFFFF#32].map f32Exp =
    [1, 141, 142, 254] := by decide
theorem test_witness_Q2fLeadingBitForm : (due 0x05 0x80000000 0).curA ≠ 0 ∧ (due 0x05 1 0).curA ≠ 0 := by decide
theorem test_witness_Q2fTruncatesTo24Bits : (0x01FFFFFF#32 : Word) ≠ 0 ∧ (0x00FFFFFF#32).toInt.natAbs < 2 ^ 24 := by decide
/-- The four cases of rule R154 at the ends of their ranges. -/
theorem test_witness_FloatRoundTrip :
    [4#32, 0xFF000001#32, 0#32, 1#32, 0xFFFFFFFD#32, 0x01000000#32, 0x80000001#32, 0x80000000#32].map (fun r => r.toInt.natAbs) =
      [4, 2 ^ 24 - 1, 0, 1, 3, 2 ^ 24, 2 ^ 31 - 1, 2 ^ 31] := by decide
theorem test_witness_FmtZeroPrecisionMeansTwo : (7#3 : BitVec 3) ≠ 0 := by decide
theorem test_witness_FmtLengthAtMost14 : (fmtDigits 0x7FFFFFFF#32 2#3).1 = 32768 ∧ (fmtDigits 0x80000000#32 7#3).1 = 32768 := by decide
theorem test_witness_FmtDigitsAreMinimal :
    0x2E#8 ∈ fmtChars 0x2E#8 0x00001999#32 4#3 ∧ ([0x30#8] : List Byte).head? = some 0x30#8 := by decide
theorem test_witness_FmtSignIsPrefixOfMagnitude : (0xFFFFFFFF#32).toInt < 0 ∧ (0xFFFFFFFF#32 : Word) ≠ 0x80000000#32 := by decide
theorem test_witness_AssemblerFormsEncode :
    argOperand 2 (.res 1) = some (.result 1) ∧ argOperand 2 (.hex [15]) = some (.word 15) ∧ (7 : Nat) < 8 := by decide
/-- `#-32768` is the least raw word, and `#0.1` is none. -/
theorem test_witness_AssemblerDecimals :
    (∃ (d : ℚ) (n : ℤ), d = (if true then -1 else 1) * (Nat.ofDigits 10 (([3, 2, 7, 6, 8] ++ [] : List (Fin 10)).map Fin.val).reverse : ℚ) /
      10 ^ ([] : List (Fin 10)).length ∧ d * 2 ^ 16 = n ∧ -2 ^ 31 ≤ n ∧ n ≤ 2 ^ 31 - 1) ∧
    (∃ d : ℚ, d = (if false then -1 else 1) * (Nat.ofDigits 10 (([0] ++ [1] : List (Fin 10)).map Fin.val).reverse : ℚ) /
      10 ^ ([1] : List (Fin 10)).length ∧ ¬∃ n : ℤ, d * 2 ^ 16 = n ∧ -2 ^ 31 ≤ n ∧ n ≤ 2 ^ 31 - 1) := by
  refine ⟨⟨_, -2147483648, rfl, ?_, by norm_num, by norm_num⟩, _, rfl, ?_⟩
  · norm_num [Nat.ofDigits]
  · rintro ⟨n, hn, -⟩
    norm_num [Nat.ofDigits] at hn
    have h : (32768 : ℚ) = ((5 * n : ℤ) : ℚ) := by push_cast; linarith
    have h' : (32768 : ℤ) = 5 * n := by exact_mod_cast h
    omega
theorem test_witness_PseudoInstructionsExpand : argOperand 1 (.dec false [1] [5]) = some (.word 0x00018000) := by decide

end Sys2Proof.Tests
end

section
/-! PROOFS. `DIV` on a divisor that is not zero (rules R9, R123, R124). -/

namespace Sys2Proof.Machine

/-! ### Answers of a completion -/

/-- The cleared buffer has the character zero at every index (rule R25). -/
theorem strOfChars_nil_get (i : Fin 16) : (strOfChars [])[i] = 0 := by
  rw [strOfChars_get, List.getD_nil]

/-- A completion with a word's response answers that word (rules R22, R67). -/
theorem answersWord_complete (y : Word) (s : State) : AnswersWord (complete (Response.ofWord y) s) y :=
  ⟨⟨rfl, rfl⟩, rfl, rfl, rfl, strOfChars_nil_get⟩

/-! ### The unit of `DIV` -/

/-- `tdiv` of rule R9 in the rule's own form: the signs times the floor of the quotient of magnitudes. Where the magnitudes'
quotient is zero the sign of the result is zero, and so is the product. -/
theorem truncDiv_eq_sign_mul (n d : Int) : truncDiv n d = n.sign * d.sign * (n.natAbs / d.natAbs : Nat) := by
  have hmag : (n.tdiv d).natAbs = n.natAbs / d.natAbs := Int.natAbs_tdiv n d
  rw [truncDiv, ← Int.sign_mul_natAbs (n.tdiv d), hmag, Int.sign_tdiv]
  split
  next hlt => simp [Nat.div_eq_of_lt hlt]
  next => rfl

/-- On a divisor that is not zero, the unit answers the low 32 bits of the truncated quotient (rules R123, R124). -/
theorem divWord_of_ne_zero {b : Word} (a : Word) (hb : b ≠ 0) :
    divWord a b = .ok (u32 (truncDiv (s32 a * 2 ^ Config.fractionalBits) (s32 b))) :=
  if_neg hb

/-- Where the unit of `DIV` answers a word, the command completes with that word (rule R67). -/
theorem exec_div_of_ok {p : Nat} {s : State} {y : Word} (h : divWord s.curA s.curB = .ok y) :
    exec (.div p) s = .next (complete (Response.ofWord y) s) := by
  obtain ⟨r, hexec, rfl⟩ := exec_next (.div p) s
  simpa [h] using hexec

/-- Settles O38: the unit answers the truncated quotient, whose form in rule R9 is `truncDiv_eq_sign_mul`. -/
theorem divKeepsLowBitsOfTruncation : Obligations.DivKeepsLowBitsOfTruncation := by
  unfold Obligations.DivKeepsLowBitsOfTruncation
  intro p s hb
  refine ⟨_, exec_div_of_ok (divWord_of_ne_zero s.curA hb), ?_⟩
  rw [← truncDiv_eq_sign_mul]
  exact answersWord_complete _ s

end Sys2Proof.Machine
end

section
/-! PROOFS. The state's invariant and the edges of the clock: what each edge keeps, and the responses that keep the
invariant (rules R22, R23, R25, R182, R200, R201, R230, R233, R234). -/

namespace Sys2Proof.Machine

/-! ### The length of `FMT`'s string -/

/-- A number below `10^p` has at most `p` digits. -/
theorem decDigits_length_le (fuel : Nat) {n p : Nat} (hp : 0 < p) (hn : n < 10 ^ p) :
    (decDigits fuel n).length ≤ p := by
  induction fuel generalizing n p with
  | zero => exact Nat.zero_le p
  | succ k ih =>
    rw [decDigits]
    split
    next => simpa using Nat.succ_le_of_lt hp
    next hge =>
      obtain ⟨q, rfl⟩ := Nat.exists_eq_succ_of_ne_zero hp.ne'
      have hq : 0 < q := Nat.pos_of_ne_zero fun h => by simp [h] at hn; omega
      have hdiv : n / 10 < 10 ^ q := by rw [Nat.pow_succ] at hn; omega
      simpa using ih hq hdiv

/-- A number below `10^p` has a numeral of at most `p` characters (rule R170). -/
theorem decNumeral_length_le {n p : Nat} (hp : 0 < p) (hn : n < 10 ^ p) : (decNumeral n).length ≤ p := by
  simpa [decNumeral] using decDigits_length_le (n + 1) hp hn

/-- A fraction below `10^p` is padded to exactly `p` characters (rules R170, R173). -/
theorem decPadded_length {f p : Nat} (hp : 0 < p) (hf : f < 10 ^ p) : (decPadded f p).length = p := by
  have hlen := decNumeral_length_le hp hf
  simp only [decPadded, List.length_append, List.length_replicate]
  omega

/-- The fraction is below `10^p` once its carry is taken out (rules R173 to R175). -/
theorem fmtCarry_snd_lt (ip : Nat) {fr : Nat} (p : Nat) (hfr : fr < 2 ^ 16) :
    (fmtCarry ip (fmtRounded (fmtScaled fr p)) p).2 < 10 ^ p := by
  have hscaled : fmtScaled fr p < 10 ^ (p + 1) := by
    rw [fmtScaled, Nat.div_lt_iff_lt_mul (by decide), Nat.mul_comm]
    exact Nat.mul_lt_mul_of_pos_left hfr (by positivity)
  have hrounded : fmtRounded (fmtScaled fr p) ≤ 10 ^ p := by
    rw [fmtRounded_eq]
    rw [Nat.pow_succ] at hscaled
    omega
  unfold fmtCarry
  split
  next => positivity
  next hne => exact lt_of_le_of_ne hrounded hne

/-- The carry raises the integer part by at most one (rule R175). -/
theorem fmtCarry_fst_le (ip f p : Nat) : (fmtCarry ip f p).1 ≤ ip + 1 := by
  unfold fmtCarry
  split <;> simp

/-- Stripping zeros leaves no more digits than there were, and a fraction that fits in them (rule R176). -/
theorem fmtStrip_bounds {f p : Nat} (hf : f < 10 ^ p) :
    (fmtStrip f p).2 ≤ p ∧ (fmtStrip f p).1 < 10 ^ (fmtStrip f p).2 := by
  induction p generalizing f with
  | zero => simpa [fmtStrip] using hf
  | succ p ih =>
    rw [fmtStrip]
    split
    next =>
      have hdiv : f / 10 < 10 ^ p := by rw [Nat.pow_succ] at hf; omega
      obtain ⟨hprec, hfrac⟩ := ih hdiv
      exact ⟨Nat.le_succ_of_le hprec, hfrac⟩
    next => exact ⟨Nat.le_refl _, hf⟩

/-- The precision is at most 7 (rule R171). -/
theorem fmtPrecision_le (prec : BitVec 3) : fmtPrecision prec ≤ 7 := by
  revert prec
  decide

/-- A word's magnitude is at most `2^31` (rule R9, decision D15). -/
theorem magnitude_le (a : Word) : magnitude a ≤ 2 ^ 31 := by
  have hlo := BitVec.le_toInt a
  have hhi := BitVec.toInt_lt (x := a)
  unfold magnitude s32
  omega

/-- The printed integer part has at most 5 digits (rule R182). -/
theorem fmtDigits_fst_lt (a : Word) (prec : BitVec 3) : (fmtDigits a prec).1 < 10 ^ 5 := by
  have hint : integerPart a ≤ 2 ^ 15 := Nat.div_le_of_le_mul (magnitude_le a)
  have hcarry : (fmtDigits a prec).1 ≤ integerPart a + 1 := fmtCarry_fst_le _ _ _
  omega

/-- The printed fraction has at most 7 digits, and its number fits in them (rules R171, R176). -/
theorem fmtDigits_frac_bounds (a : Word) (prec : BitVec 3) :
    (fmtDigits a prec).2.2 ≤ 7 ∧ (fmtDigits a prec).2.1 < 10 ^ (fmtDigits a prec).2.2 := by
  have hfr : fractionPart a < 2 ^ 16 := Nat.mod_lt _ (by decide)
  obtain ⟨hprec, hfrac⟩ := fmtStrip_bounds (fmtCarry_snd_lt (integerPart a) (fmtPrecision prec) hfr)
  exact ⟨hprec.trans (fmtPrecision_le prec), hfrac⟩

/-- The string of `FMT` has at most 14 characters: a sign, 5 digits, a point and 7 digits (rule R182). -/
theorem fmtChars_length_le (point : Byte) (a : Word) (prec : BitVec 3) : (fmtChars point a prec).length ≤ 14 := by
  have hwhole := decNumeral_length_le (by decide) (fmtDigits_fst_lt a prec)
  obtain ⟨hprec, hfrac⟩ := fmtDigits_frac_bounds a prec
  have hsign : (if s32 a < 0 then [minusChar] else []).length ≤ 1 := by split <;> simp
  have hpoint : (if 0 < (fmtDigits a prec).2.2 then
      point :: decPadded (fmtDigits a prec).2.1 (fmtDigits a prec).2.2 else []).length ≤ 8 := by
    split
    next hpos => simpa [decPadded_length hpos hfrac] using Nat.lt_succ_of_le hprec
    next => simp
  simp only [fmtChars, List.length_append]
  omega

/-! ### The responses keep `Response.Inv` -/

/-- The response of a command on its operands, as the units give it (rule R67). -/
def commandResponse (i : Instr) (a b : Word) : Response :=
  match i with
  | .adds _ => Response.ofWord (addsWord a b)
  | .subs _ => Response.ofWord (subsWord a b)
  | .mul _ => Response.ofWord (mulWord a b)
  | .div _ => Response.ofUnit (divWord a b)
  | .f2q _ => Response.ofUnit (f2qWord Config.denormClampExp a)
  | .q2f _ => Response.ofWord (q2fWord a)
  | .fmt p => Response.ofChars (fmtChars Config.decimalPoint a (precField p))

/-- Every command completes its request with the response of its operands (rules R22, R67). -/
theorem exec_eq_complete (i : Instr) (s : State) :
    exec i s = .next (complete (commandResponse i s.curA s.curB) s) := by
  obtain ⟨r, hexec, rfl⟩ := exec_next i s
  rw [hexec]
  cases i <;> rfl

theorem Response.ofWord_inv (y : Word) : (Response.ofWord y).Inv :=
  ⟨by simp, by simp, fun i _ => strOfChars_nil_get i, by simp, by simp⟩

/-- Every error but the code 6 gives a response that keeps the invariant (rules R200, R201). -/
theorem Response.ofError_inv {e : ErrKind} (he : e ≠ .invalidArgument) : (Response.ofError e).Inv := by
  refine ⟨?_, by simp, fun i _ => strOfChars_nil_get i, by simp, by simp⟩
  cases e with
  | invalidArgument => exact absurd rfl he
  | _ => decide

theorem Response.ofUnit_inv {u : Except ErrKind Word} (hu : u ≠ .error .invalidArgument) : (Response.ofUnit u).Inv := by
  cases u with
  | ok y => exact Response.ofWord_inv y
  | error e => exact Response.ofError_inv fun he => hu (congrArg _ he)

/-- A string of at most 14 characters gives a response that keeps the invariant (rules R25, R182). -/
theorem Response.ofChars_inv {cs : List Byte} (hcs : cs.length ≤ 14) : (Response.ofChars cs).Inv := by
  have hlen : (Response.ofChars cs).len.toNat = cs.length := by
    simp only [ofChars_len, BitVec.toNat_ofNat]
    omega
  refine ⟨by simp, hlen.trans_le hcs, fun i hi => ?_, by simp, by simp⟩
  rw [ofChars_str, strOfChars_get]
  exact List.getD_eq_default _ _ (hlen ▸ hi)

theorem Response.cleared_inv : Response.cleared.Inv :=
  ⟨by decide, by decide, fun i _ => strOfChars_nil_get i, fun _ => ⟨rfl, rfl⟩, fun _ => rfl⟩

/-- `DIV` fails with DivideByZero alone (rule R202). -/
theorem divWord_ne_invalidArgument (a b : Word) : divWord a b ≠ .error .invalidArgument := by
  unfold divWord
  split <;> simp

/-- `F2Q` never fails with InvalidArgument (rule R202). -/
theorem f2qWord_ne_invalidArgument (clampExp : Nat) (f : Word) : f2qWord clampExp f ≠ .error .invalidArgument := by
  simp only [f2qWord]
  split_ifs <;> simp

/-- Every command's response keeps the invariant. -/
theorem commandResponse_inv (i : Instr) (a b : Word) : (commandResponse i a b).Inv := by
  cases i with
  | div p => exact Response.ofUnit_inv (divWord_ne_invalidArgument a b)
  | f2q p => exact Response.ofUnit_inv (f2qWord_ne_invalidArgument _ a)
  | fmt p => exact Response.ofChars_inv (fmtChars_length_le _ a _)
  | _ => exact Response.ofWord_inv _

/-! ### The host's side of an edge keeps the invariant -/

/-- Noting a response keeps the numbers rising where every known number is at most the one noted. -/
theorem noteResponse_pairwise {n : Nat} {r : Response} {known : List NumberedResponse}
    (hrise : known.Pairwise fun c d => c.request < d.request) (hle : ∀ c ∈ known, c.request ≤ n) :
    (noteResponse n r known).Pairwise fun c d => c.request < d.request := by
  unfold noteResponse
  split
  next => exact hrise
  next hnew =>
    refine List.pairwise_append.2 ⟨hrise, List.pairwise_singleton _ _, fun c hc d hd => ?_⟩
    obtain rfl := List.mem_singleton.1 hd
    have hne : c.request ≠ n := fun he => hnew (List.any_eq_true.2 ⟨c, hc, by simp [he]⟩)
    exact lt_of_le_of_ne (hle c hc) hne

/-- What the host sees of `rsp_valid` at an edge keeps what it knows of the requests right (rule R234). -/
theorem observe_inv {s : State} (hs : s.Inv) : (observe s).Inv := by
  obtain ⟨hrsp, hexcl, hseen, hrise, hknown, hflight, hlast⟩ := hs
  unfold observe
  split
  next hvalid =>
    obtain ⟨-, hvalid⟩ : s.wasReset = true ∧ s.rspValid = true := by simpa using hvalid
    have hidle : s.busy ≠ true := fun hb => by simp [hexcl hb] at hvalid
    refine ⟨hrsp, hexcl, hseen, noteResponse_pairwise hrise fun c hc => (hknown c hc).2, fun c hc => ?_,
      fun hb => absurd hb hidle, fun _ c hc hnum => ?_⟩
    · obtain hc | ⟨rfl, -⟩ := mem_noteResponse hc
      · exact hknown c hc
      · exact ⟨hrsp, Nat.le_refl _⟩
    · obtain hc | ⟨rfl, -⟩ := mem_noteResponse hc
      · exact hlast hvalid c hc hnum
      · rfl
  next => exact ⟨hrsp, hexcl, hseen, hrise, hknown, hflight, hlast⟩

/-- A host's move reads the response registers or nothing. -/
theorem mem_seen_of_hostMove {s h : State} {p : Pins} (hs : hostMove s = .ok (p, h)) {r : Response} (hr : r ∈ h.seen) :
    r ∈ s.seen ∨ r = s.rsp := by
  have hcollect {r' : Response} (hsample : sample s = .ok r') (hr : r ∈ (collect r' s).seen) : r ∈ s.seen ∨ r = s.rsp := by
    obtain ⟨rfl, -⟩ := sample_ok hsample
    simpa using hr
  unfold hostMove at hs
  split at hs
  next => cases hs; exact .inl hr
  next => cases hs; exact .inl hr
  next =>
    split at hs
    next => cases hs; split at hr <;> exact .inl hr
    next => cases hs
    next => cases hs
  next =>
    split at hs
    next => cases hs; exact .inl hr
    next =>
      split at hs
      next hsample => cases hs; exact hcollect hsample hr
      next => cases hs
  next =>
    split at hs
    next hsample => cases hs; exact hcollect hsample hr
    next => cases hs

/-- The host's side of an edge keeps the invariant: it changes no register, and what it reads is the response. -/
theorem hostEdge_inv {s h : State} {p : Pins} (hs : s.Inv) (hh : hostEdge s = .ok (p, h)) : h.Inv := by
  obtain ⟨hrsp, hvalid, hbusy, -, -, -, -, -, -, hacc, hresults⟩ := hostMove_keeps hh
  obtain ⟨irsp, iexcl, iseen, iresults⟩ := observe_inv hs
  refine ⟨hrsp ▸ irsp, hbusy ▸ hvalid ▸ iexcl, fun r hr => ?_, ?_⟩
  · obtain hr | rfl := mem_seen_of_hostMove hh hr
    · exact iseen r hr
    · exact irsp
  · simpa only [State.ResultsInv, hrsp, hvalid, hbusy, hacc, hresults] using iresults

/-! ### The edges keep the invariant -/

theorem resetEdge_inv {h : State} (hi : h.Inv) : (resetEdge h).Inv := by
  obtain ⟨-, -, hseen, hrise, hknown, -, -⟩ := hi
  exact ⟨Response.cleared_inv, by simp, hseen, hrise, hknown, by simp, by simp⟩

/-- Waiting changes no field the invariant speaks of. -/
theorem waitEdge_inv {h : State} (hi : h.Inv) : (waitEdge h).Inv := hi

/-- An accepted request takes the next number, past every number known. -/
theorem acceptRequest_inv {h : State} (p : Pins) (hi : h.Inv) : (acceptRequest p h).Inv := by
  obtain ⟨hrsp, -, hseen, hrise, hknown, -, -⟩ := hi
  exact ⟨hrsp, by simp, hseen, hrise, fun c hc => ⟨(hknown c hc).1, Nat.le_succ_of_le (hknown c hc).2⟩,
    fun _ c hc => Nat.lt_succ_of_le (hknown c hc).2, by simp⟩

/-- A completion from a busy state: no response is known yet for the request that completes. -/
theorem complete_inv {h : State} {r : Response} (hi : h.Inv) (hr : r.Inv) (hb : h.busy = true) : (complete r h).Inv := by
  obtain ⟨-, -, hseen, hrise, hknown, hflight, -⟩ := hi
  exact ⟨hr, by simp, hseen, hrise, hknown, by simp, fun _ c hc hnum => absurd hnum (hflight hb c hc).ne⟩

/-- Settles O19: the host's side of the edge and each of the five edges keep the invariant. -/
theorem stepKeepsResponseInvariant : Obligations.StepKeepsResponseInvariant := by
  unfold Obligations.StepKeepsResponseInvariant
  intro s t hs hstep
  obtain ⟨f, -, hfault⟩ | ⟨p, h, hh, hedge⟩ := step_cases s
  · simp [hfault] at hstep
  have hi : h.Inv := hostEdge_inv hs hh
  obtain ⟨-, -, hbusy, -⟩ := hostEdge_keeps hh
  have hnext {u : State} (he : step s = .next u) (hu : u.Inv) : t.Inv :=
    Host.Outcome.next.inj (he.symm.trans hstep) ▸ hu
  obtain ⟨-, he⟩ | ⟨-, -, -, he⟩ | ⟨-, -, -, he⟩ | ⟨-, -, -, he⟩ | ⟨-, hb, -, ⟨i, -, he⟩ | ⟨w, -, he⟩⟩ := hedge
  · exact hnext he (resetEdge_inv hi)
  · exact hnext he (waitEdge_inv hi)
  · exact hnext he (acceptRequest_inv p hi)
  · exact hnext he hi
  · exact hnext (he.trans (exec_eq_complete i h)) (complete_inv hi (commandResponse_inv i _ _) (hbusy.trans hb))
  · exact hnext he (complete_inv hi (Response.ofError_inv (by decide)) (hbusy.trans hb))

end Sys2Proof.Machine
end

section
/-! PROOFS. One edge and runs of edges: which edge a step is, what a quiet host leaves alone, how long a captured request
waits, and what no step reads while the block is idle (rules R20 to R22, R31, R45, R67, R230, R233). -/

namespace Sys2Proof.Machine

/-! ### Completions -/

theorem completed_complete (r : Response) (s : State) : Completed (complete r s) := ⟨rfl, rfl⟩

theorem keepsRest_complete (r : Response) (s : State) : KeepsRest s (complete r s) := by simp [KeepsRest]

/-- The response to a request whose command word the decoder reads so: the command's, or IllegalCommand's (rules R65, R67). -/
def decodedResponse (d : Decoded) (a b : Word) : Response :=
  match d with
  | .instr i => commandResponse i a b
  | .illegal _ => Response.ofError .illegalCommand

/-- `Execute`, written over the bit fields of the command word, is the response to what the decoder reads (rule R67). -/
theorem execute_eq_decodedResponse (w : Byte) (a b : Word) : execute w a b = decodedResponse (decode w) a b := by
  have hops : ∀ op : BitVec 3, op = 0#3 ∨ op = 1#3 ∨ op = 2#3 ∨ op = 3#3 ∨ op = 4#3 ∨ op = 5#3 ∨ op = 6#3 ∨
      op = 7#3 := by decide
  by_cases hrsv : cmdRsv w = 0#2
  · obtain hop | hop | hop | hop | hop | hop | hop | hop := hops (cmdOp w) <;>
      simp [execute, decode, decodedResponse, commandResponse, precField, hrsv, hop]
  · simp [execute, decode, decodedResponse, hrsv]

/-! ### Which edge a step is -/

/-- A step whose edge is a reset (rule R230). -/
theorem step_of_reset {s h : State} {p : Pins} (hh : hostEdge s = .ok (p, h)) (hrst : p.rst = true) :
    step s = .next (resetEdge h) := by
  simp [step, edgeKind, hh, hrst]

/-- A step whose host's move has no value (decision D30). -/
theorem step_of_hostEdge_error {s : State} {f : Fault} (hh : hostEdge s = .error f) : step s = .fault f := by
  simp [step, hh]

section Edges
variable {s h : State} {p : Pins} (hh : hostEdge s = .ok (p, h)) (hrst : p.rst = false)
include hh hrst

/-- A step that accepts the request on the ports (rules R22, R233). -/
theorem step_of_accept (hvalid : p.reqValid = true) (hb : s.busy = false) : step s = .next (acceptRequest p h) := by
  simp [step, edgeKind, hh, hrst, hvalid, hb]

/-- A step at which the captured request is not due yet (rule R233). -/
theorem step_of_wait (hb : s.busy = true) (hw : s.wait ≠ 0) : step s = .next (waitEdge h) := by
  simp [step, edgeKind, hh, hrst, hb, hw]

/-- A step with nothing in flight and nothing on the ports. -/
theorem step_of_idle (hvalid : p.reqValid = false) (hb : s.busy = false) : step s = .next h := by
  simp [step, edgeKind, hh, hrst, hvalid, hb]

/-- A step at which the captured request is due runs its command (rules R22, R67). -/
theorem step_of_due_instr {i : Instr} (hb : s.busy = true) (hw : s.wait = 0) (hi : decode s.curCmd = .instr i) :
    step s = exec i h := by
  simp [step, edgeKind, hh, hrst, hb, hw, hi]

/-- A step at which the captured request is due completes it with `Execute` of the request, its command word legal or not
(rule R67). -/
theorem step_of_due (hb : s.busy = true) (hw : s.wait = 0) :
    step s = .next (complete (execute s.curCmd s.curA s.curB) h) := by
  obtain ⟨-, -, -, -, hA, hB, -⟩ := hostEdge_keeps hh
  rw [execute_eq_decodedResponse]
  cases hd : decode s.curCmd with
  | instr i => rw [step_of_due_instr hh hrst hb hw hd, exec_eq_complete, hA, hB, decodedResponse]
  | illegal why => simp [step, edgeKind, hh, hrst, hb, hw, hd, raiseError, decodedResponse]

end Edges

/-! ### A quiet host -/

/-- Every move to come leaves a captured request alone and reads nothing. -/
def QuietScript (s : State) : Prop := ∀ m ∈ s.script, m.quiet = true

/-- A host that drives words resolves every operand. -/
theorem resolve_of_isWord (known : List NumberedResponse) {o : HostOperand} (ho : o.isWord = true) :
    ∃ w, resolve known o = .ok w := by
  cases o with
  | word w => exact ⟨w, rfl⟩
  | result k => simp [HostOperand.isWord] at ho

/-- A quiet host's move has a value, is no reset, reads nothing and leaves quiet moves. -/
theorem hostMove_of_quiet {s : State} (hq : QuietScript s) :
    ∃ p h, hostMove s = .ok (p, h) ∧ p.rst = false ∧ h.seen = s.seen ∧ QuietScript h := by
  have hpop : QuietScript (popMove s) := fun m hm => hq m (List.mem_of_mem_tail hm)
  unfold hostMove
  split
  next => exact ⟨_, _, rfl, rfl, rfl, hq⟩
  next p rest hscript =>
    have hrst : p.rst = false := by simpa [HostMove.quiet] using hq (.drive p) (by simp [hscript])
    exact ⟨_, _, rfl, hrst, rfl, hpop⟩
  next cmd a b rest hscript =>
    obtain ⟨ha, hb⟩ : a.isWord = true ∧ b.isWord = true := by
      simpa [HostMove.quiet] using hq (.hold cmd a b) (by simp [hscript])
    obtain ⟨x, hx⟩ := resolve_of_isWord s.results ha
    obtain ⟨y, hy⟩ := resolve_of_isWord s.results hb
    rw [hx, hy]
    refine ⟨_, _, rfl, rfl, ?_⟩
    split
    next => exact ⟨rfl, hq⟩
    next => exact ⟨rfl, hpop⟩
  next rest hscript => simpa [HostMove.quiet] using hq .await (by simp [hscript])
  next rest hscript => simpa [HostMove.quiet] using hq .read (by simp [hscript])

/-- A quiet host's edge has a value, is no reset, reads nothing and leaves quiet moves. -/
theorem hostEdge_of_quiet {s : State} (hq : QuietScript s) :
    ∃ p h, hostEdge s = .ok (p, h) ∧ p.rst = false ∧ h.seen = s.seen ∧ QuietScript h := by
  have hobs : QuietScript (observe s) := by simpa [QuietScript] using hq
  obtain ⟨p, h, hmove, hrst, hseen, hquiet⟩ := hostMove_of_quiet hobs
  exact ⟨p, h, hmove, hrst, hseen.trans (observe_seen s), hquiet⟩

/-! ### Waiting for a completion -/

/-- A run of `j + k` steps goes on from where its first `j` steps end. -/
theorem run_add_of_next {s t : State} {j : Nat} (k : Nat) (h : core.run j s = .next t) :
    core.run (j + k) s = core.run k t := by
  induction j generalizing s with
  | zero =>
    obtain rfl := Host.Outcome.next.inj h
    rw [Nat.zero_add]
  | succ j ih =>
    rw [Nat.succ_add]
    cases hstep : step s with
    | next u =>
      rw [run_succ_of_next j hstep] at h
      rw [run_succ_of_next _ hstep, ih h]
    | fault f => simp [run_succ_of_fault j hstep] at h
    | refused r =>
      have hcore : core.step s = .refused r := hstep
      simp [Host.Core.run, hcore] at h

/-- `u` is `s` after `k` edges of waiting: the captured request is still in flight, with `k` edges fewer to wait, and the
response registers and what the host has read are as they were. -/
structure WaitedFrom (s u : State) (k : Nat) : Prop where
  busy : u.busy = true
  wait : u.wait = s.wait - k
  quiet : QuietScript u
  rsp : u.rsp = s.rsp
  rspValid : u.rspValid = s.rspValid
  curCmd : u.curCmd = s.curCmd
  curA : u.curA = s.curA
  curB : u.curB = s.curB
  seen : u.seen = s.seen

/-- At an edge before the captured request is due, a quiet host's step waits (rule R233). -/
theorem step_waits {s : State} (hb : s.busy = true) (hq : QuietScript s) (hw : s.wait ≠ 0) :
    ∃ u, step s = .next u ∧ WaitedFrom s u 1 := by
  obtain ⟨p, h, hh, hrst, hseen, hquiet⟩ := hostEdge_of_quiet hq
  obtain ⟨hrsp, hvalid, hbusy, hcmd, hA, hB, -, hwait, -⟩ := hostEdge_keeps hh
  exact ⟨_, step_of_wait hh hrst hb hw,
    ⟨hbusy.trans hb, congrArg (· - 1) hwait, hquiet, hrsp, hvalid, hcmd, hA, hB, hseen⟩⟩

/-- A quiet host's run waits as long as the captured request has edges to wait (rules R22, R233). -/
theorem run_waits {s : State} (hb : s.busy = true) (hq : QuietScript s) {k : Nat} (hk : k ≤ s.wait) :
    ∃ u, core.run k s = .next u ∧ WaitedFrom s u k := by
  induction k with
  | zero => exact ⟨s, rfl, hb, rfl, hq, rfl, rfl, rfl, rfl, rfl, rfl⟩
  | succ k ih =>
    obtain ⟨u, hrun, hu⟩ := ih (Nat.le_of_succ_le hk)
    have hw : u.wait ≠ 0 := by rw [hu.wait]; omega
    obtain ⟨v, hstep, hv⟩ := step_waits hu.busy hu.quiet hw
    refine ⟨v, ?_, hv.busy, ?_, hv.quiet, hv.rsp.trans hu.rsp, hv.rspValid.trans hu.rspValid, hv.curCmd.trans hu.curCmd,
      hv.curA.trans hu.curA, hv.curB.trans hu.curB, hv.seen.trans hu.seen⟩
    · rw [run_add_of_next 1 hrun, run_succ_of_next 0 hstep, run_zero]
    · rw [hv.wait, hu.wait, Nat.sub_sub]

/-- The accept of a request draws at least `FXU_LATENCY(op) - 1` edges to wait (rule R233). -/
theorem le_edgesToWait_of_lt_latency {cmd : Byte} {k : Nat} (draw : Nat) (hk : k < Config.fxuLatency (cmdOp cmd)) :
    k ≤ edgesToWait cmd draw := by
  unfold edgesToWait
  omega

/-! ### The captured request is not read while the block is idle -/

/-- The outcome of a step, the captured request blanked. -/
def eraseOutcome : Host.Outcome State Fault Refusal → Host.Outcome State Fault Refusal
  | .next t => .next (eraseCaptured t)
  | .fault f => .fault f
  | .refused r => .refused r

@[simp] theorem eraseCaptured_busy (s : State) : (eraseCaptured s).busy = s.busy := rfl
@[simp] theorem eraseCaptured_rspValid (s : State) : (eraseCaptured s).rspValid = s.rspValid := rfl
@[simp] theorem eraseCaptured_wasReset (s : State) : (eraseCaptured s).wasReset = s.wasReset := rfl
@[simp] theorem eraseCaptured_script (s : State) : (eraseCaptured s).script = s.script := rfl
@[simp] theorem eraseCaptured_results (s : State) : (eraseCaptured s).results = s.results := rfl
@[simp] theorem sample_eraseCaptured (s : State) : sample (eraseCaptured s) = sample s := rfl

theorem observe_eraseCaptured (s : State) : observe (eraseCaptured s) = eraseCaptured (observe s) := by
  rw [observe, observe, apply_ite eraseCaptured]
  rfl

/-- The host's move does not see the captured request. -/
theorem hostMove_eraseCaptured (s : State) :
    hostMove (eraseCaptured s) = (hostMove s).map (Prod.map id eraseCaptured) := by
  -- As definitional equalities the field lemmas would leave the blanked state in the tests' `Decidable` arguments.
  simp -implicitDefEqProofs only [hostMove, eraseCaptured_busy, eraseCaptured_rspValid, eraseCaptured_wasReset,
    eraseCaptured_script, eraseCaptured_results, sample_eraseCaptured]
  split
  next => rfl
  next => rfl
  next => split <;> [split <;> rfl; rfl; rfl]
  next => split <;> [rfl; split <;> rfl]
  next => split <;> rfl

theorem hostEdge_eraseCaptured (s : State) :
    hostEdge (eraseCaptured s) = (hostEdge s).map (Prod.map id eraseCaptured) := by
  unfold hostEdge
  rw [observe_eraseCaptured, hostMove_eraseCaptured]

/-- While the block is idle, blanking the captured request does not change the step (rules R21, R31). -/
theorem step_eraseCaptured {s : State} (hb : s.busy = false) :
    eraseOutcome (step (eraseCaptured s)) = eraseOutcome (step s) := by
  have hedge := hostEdge_eraseCaptured s
  have hb' : (eraseCaptured s).busy = false := hb
  cases hh : hostEdge s with
  | error f =>
    rw [hh] at hedge
    rw [step_of_hostEdge_error hedge, step_of_hostEdge_error hh]
  | ok ph =>
    obtain ⟨p, h⟩ := ph
    rw [hh] at hedge
    cases hrst : p.rst with
    | true =>
      rw [step_of_reset hedge hrst, step_of_reset hh hrst]
      rfl
    | false =>
      cases hvalid : p.reqValid with
      | true =>
        rw [step_of_accept hedge hrst hvalid hb', step_of_accept hh hrst hvalid hb]
        rfl
      | false =>
        rw [step_of_idle hedge hrst hvalid hb', step_of_idle hh hrst hvalid hb]
        rfl

end Sys2Proof.Machine
end

section
/-! PROOFS. The statements about the state, the edges and the runs, settled by the lemmas above, and the classes of
rule R30. -/

namespace Sys2Proof.Machine

/-- Settles O10: both steps have the outcome of the state whose captured request is blanked. -/
theorem capturedRequestUnreadWhileIdle : Obligations.CapturedRequestUnreadWhileIdle := by
  unfold Obligations.CapturedRequestUnreadWhileIdle
  intro s u hb herase
  have hb' : u.busy = false := (congrArg State.busy herase).symm.trans hb
  have hsame : eraseOutcome (step s) = eraseOutcome (step u) := by
    rw [← step_eraseCaptured hb, ← step_eraseCaptured hb', herase]
  refine ⟨fun t ht => ?_, fun f hf => ?_⟩
  · rw [ht] at hsame
    cases hu : step u with
    | next v =>
      rw [hu] at hsame
      exact ⟨v, rfl, (Host.Outcome.next.inj hsame).symm⟩
    | fault f => simp [hu, eraseOutcome] at hsame
    | refused r => simp [hu, eraseOutcome] at hsame
  · rw [hf] at hsame
    cases hu : step u with
    | next v => simp [hu, eraseOutcome] at hsame
    | fault f' => simpa [hu, eraseOutcome] using hsame.symm
    | refused r => simp [hu, eraseOutcome] at hsame

/-- Settles O13: such an edge waits, accepts or idles, and each of the three keeps the response registers. -/
theorem responsesHoldBetweenCompletions : Obligations.ResponsesHoldBetweenCompletions := by
  unfold Obligations.ResponsesHoldBetweenCompletions
  intro s h t p hh hrst hdue hstep
  obtain ⟨hrsp, -⟩ := hostEdge_keeps hh
  have hkeeps {u : State} (he : step s = .next u) (hu : u.rsp = h.rsp) : t.rsp = s.rsp :=
    Host.Outcome.next.inj (he.symm.trans hstep) ▸ hu.trans hrsp
  cases hb : s.busy with
  | true => exact hkeeps (step_of_wait hh hrst hb fun hw => hdue ⟨hb, hw⟩) rfl
  | false =>
    cases hvalid : p.reqValid with
    | true => exact hkeeps (step_of_accept hh hrst hvalid hb) rfl
    | false => exact hkeeps (step_of_idle hh hrst hvalid hb) rfl

/-- Settles O15: the accept draws at least `FXU_LATENCY(op) - 1` edges to wait, and a quiet host's run waits them all. -/
theorem noCompletionBeforeLatency : Obligations.NoCompletionBeforeLatency := by
  unfold Obligations.NoCompletionBeforeLatency
  intro s h t p hh hrst hvalid hb hstep hquiet k hk
  obtain ⟨hrsp, -⟩ := hostEdge_keeps hh
  obtain rfl := Host.Outcome.next.inj ((step_of_accept hh hrst hvalid hb).symm.trans hstep)
  obtain ⟨u, hrun, hu⟩ := run_waits (acceptRequest_busy p h) hquiet (le_edgesToWait_of_lt_latency h.draws hk)
  exact ⟨u, hrun, hu.busy, hu.rspValid, hu.rsp.trans hrsp⟩

/-- Settles O16: after `wait` edges of waiting the request is due, and the next edge completes it. -/
theorem capturedRequestCompletes : Obligations.CapturedRequestCompletes := by
  unfold Obligations.CapturedRequestCompletes
  intro s hb hquiet
  obtain ⟨u, hrun, hu⟩ := run_waits hb hquiet (Nat.le_refl s.wait)
  obtain ⟨p, h, hh, hrst, hseen, -⟩ := hostEdge_of_quiet hu.quiet
  obtain ⟨-, -, -, hcmd, hA, hB, -⟩ := hostEdge_keeps hh
  have hdue : u.wait = 0 := by rw [hu.wait, Nat.sub_self]
  refine ⟨complete (execute s.curCmd s.curA s.curB) h, ?_, rfl, completed_complete _ h, hcmd.trans hu.curCmd,
    hA.trans hu.curA, hB.trans hu.curB, hseen.trans hu.seen⟩
  rw [run_add_of_next 1 hrun, run_succ_of_next 0 (step_of_due hh hrst hu.busy hdue), run_zero, hu.curCmd, hu.curA, hu.curB]

/-! ### The classes of a binary32 pattern -/

/-- The pattern without its sign is zero exactly where both its fields are (rules R29, R30). -/
theorem f32_unsigned_eq_zero_iff (f : Word) : f.extractLsb' 0 31 = 0 ↔ f32Exp f = 0 ∧ f32Mant f = 0 := by
  have hlt := f.isLt
  have hz : (0 : BitVec 31).toNat = 0 := rfl
  rw [← BitVec.toNat_inj, hz]
  simp only [f32Exp, f32Mant, BitVec.extractLsb'_toNat, Nat.shiftRight_eq_div_pow, Nat.pow_zero, Nat.div_one]
  omega

/-- The biased exponent has 8 bits (rule R29). -/
theorem f32Exp_lt (f : Word) : f32Exp f < 256 := (f.extractLsb' 23 8).isLt

/-- The class a pattern's exponent and mantissa fields put it in, row by row of rule R30's table. -/
def f32Class (f : Word) : F32Class :=
  if f32Exp f = 255 then if f32Mant f = 0 then .infinity else .nan
  else if f32Exp f = 0 then if f32Mant f = 0 then .zero else .subnormal
  else .normal

/-- A class's condition holds of the patterns of that class alone (rule R30). -/
theorem holds_iff_eq_f32Class (f : Word) (d : F32Class) : d.holds f = true ↔ d = f32Class f := by
  have hlt := f32Exp_lt f
  have hzero := f32_unsigned_eq_zero_iff f
  unfold f32Class
  cases d <;> simp only [F32Class.holds, Bool.and_eq_true, beq_iff_eq, bne_iff_ne, decide_eq_true_eq, hzero] <;>
    split_ifs <;> simp only [iff_false, iff_true] <;> omega

/-- Settles O42: the class is the one that the exponent and mantissa fields give. -/
theorem classesPartitionPatterns : Obligations.ClassesPartitionPatterns := by
  unfold Obligations.ClassesPartitionPatterns
  exact fun f => ⟨f32Class f, (holds_iff_eq_f32Class f _).2 rfl, fun d => (holds_iff_eq_f32Class f d).1⟩

/-! ### Single edges, the reset state, the ports and the commands -/

/-- Settles O6: such an edge is the due one, and the host's move keeps every register. -/
theorem stepRunsDecodedCommand : Obligations.StepRunsDecodedCommand := by
  unfold Obligations.StepRunsDecodedCommand
  intro s h p i hh hrst hb hw hi
  obtain ⟨-, -, -, hcmd, hA, hB, -⟩ := hostEdge_keeps hh
  exact ⟨step_of_due_instr hh hrst hb hw hi, hcmd, hA, hB⟩

/-- Settles O9: each value is the field of `State.reset`, its buffer the cleared one. -/
theorem resetStateValues : Obligations.ResetStateValues := by
  unfold Obligations.ResetStateValues
  exact ⟨rfl, rfl, ⟨rfl, strOfChars_nil_get⟩, rfl, rfl, rfl⟩

/-- Settles O11: the edge is an accept, and the host's move keeps the response registers. -/
theorem acceptCapturesRequest : Obligations.AcceptCapturesRequest := by
  unfold Obligations.AcceptCapturesRequest
  intro s h p hh hrst hvalid hb
  obtain ⟨hrsp, -⟩ := hostEdge_keeps hh
  exact ⟨acceptRequest p h, step_of_accept hh hrst hvalid hb, rfl, rfl, rfl, rfl, rfl, hrsp, rfl, rfl⟩

/-- Settles O14: the edge idles, and the host's move keeps every register. -/
theorem idleEdgeChangesNothing : Obligations.IdleEdgeChangesNothing := by
  unfold Obligations.IdleEdgeChangesNothing
  intro s h p hh hrst hvalid hb
  obtain ⟨hrsp, hrspValid, hbusy, hcmd, hA, hB, -⟩ := hostEdge_keeps hh
  exact ⟨step_of_idle hh hrst hvalid hb, hrsp, hrspValid, hbusy, hcmd, hA, hB⟩

/-- Settles O18: the cleared response keeps `Response.Inv`, and the host knows nothing yet. -/
theorem resetKeepsResponseInvariant : Obligations.ResetKeepsResponseInvariant := by
  unfold Obligations.ResetKeepsResponseInvariant
  exact ⟨Response.cleared_inv, fun _ => rfl, by simp [State.reset], by simp [State.ResultsInv, State.reset]⟩

/-- Settles O22: each port is its register by the definition of the ports. -/
theorem outputPortsShowRegisters : Obligations.OutputPortsShowRegisters := by
  unfold Obligations.OutputPortsShowRegisters
  exact fun s => ⟨rfl, rfl, rfl, rfl, rfl, rfl⟩

/-- Settles O26: every command is a completion with its response. -/
theorem commandsCompleteAndKeepTheRest : Obligations.CommandsCompleteAndKeepTheRest := by
  unfold Obligations.CommandsCompleteAndKeepTheRest
  exact fun i s => ⟨_, exec_eq_complete i s, completed_complete _ s, keepsRest_complete _ s⟩

/-- Settles O27: the response is a function of the command and the captured operands. -/
theorem responseDependsOnlyOnRequest : Obligations.ResponseDependsOnlyOnRequest := by
  unfold Obligations.ResponseDependsOnlyOnRequest
  intro i s u hA hB
  refine ⟨_, _, exec_eq_complete i s, exec_eq_complete i u, ?_⟩
  rw [complete_rsp, complete_rsp, hA, hB]

end Sys2Proof.Machine
end

section
/-! PROOFS. The host at an edge, move by move, and the ports: a busy block accepts nothing, a read clears nothing, and the
bytes of `rsp_str` (rules R20, R42, R45, R46, R231, R233, R234). -/

namespace Sys2Proof.Machine

/-! ### What the host observes -/

/-- A response already noted is not noted again. -/
theorem noteResponse_of_mem {n : Nat} (r : Response) {known : List NumberedResponse} {c : NumberedResponse}
    (hc : c ∈ known) (hn : c.request = n) : noteResponse n r known = known :=
  if_pos (List.any_eq_true.2 ⟨c, hc, by simpa using hn⟩)

/-- A response not known yet is noted after those known. -/
theorem noteResponse_of_new {n : Nat} (r : Response) {known : List NumberedResponse}
    (hnew : ∀ c ∈ known, c.request ≠ n) : noteResponse n r known = known ++ [⟨n, r⟩] :=
  if_neg fun h => by
    obtain ⟨c, hc, hn⟩ := List.any_eq_true.1 h
    exact hnew c hc (by simpa using hn)

/-- Noting a response a second time, as the host does at the next edge, adds nothing. -/
theorem noteResponse_idem (n : Nat) (r : Response) (known : List NumberedResponse) :
    noteResponse n r (noteResponse n r known) = noteResponse n r known := by
  by_cases hknown : ∃ c ∈ known, c.request = n
  · obtain ⟨c, hc, hn⟩ := hknown
    rw [noteResponse_of_mem r hc hn, noteResponse_of_mem r hc hn]
  · rw [noteResponse_of_new r fun c hc hn => hknown ⟨c, hc, hn⟩]
    exact noteResponse_of_mem r (List.mem_append_right _ (List.mem_singleton_self _)) rfl

/-- While a response is valid, the host notes it under the number of the last accepted request (rule R234). -/
theorem observe_of_valid {s : State} (hreset : s.wasReset = true) (hvalid : s.rspValid = true) :
    observe s = { s with results := noteResponse s.accepted s.rsp s.results } :=
  if_pos (by rw [hreset, hvalid]; rfl)

/-- While no response is valid, the host notes nothing. -/
theorem observe_of_not_valid {s : State} (hvalid : s.rspValid = false) : observe s = s :=
  if_neg (by simp [hvalid])

/-- What the host observes twice it knows as from once. -/
theorem observe_idem (s : State) : observe (observe s) = observe s := by
  by_cases hv : s.wasReset = true ∧ s.rspValid = true
  · obtain ⟨hreset, hvalid⟩ := hv
    rw [observe_of_valid hreset hvalid]
    rw [observe_of_valid (s := { s with results := noteResponse s.accepted s.rsp s.results }) hreset hvalid]
    simp only [noteResponse_idem]
  · have hskip : observe s = s := if_neg (by simpa using hv)
    rw [hskip, hskip]

/-- What the host has read before is not part of what it observes. -/
theorem observe_collect (r : Response) (s : State) : observe (collect r s) = collect r (observe s) := by
  rw [observe, observe, apply_ite (collect r)]
  rfl

/-! ### The host's moves -/

/-- What the host's move can be: it leaves the ports idle with nothing to do or a response to wait for, drives levels, holds
a request, or reads a response. -/
theorem hostMove_cases {s h : State} {p : Pins} (hh : hostMove s = .ok (p, h)) :
    (p = Pins.idle ∧ h = s ∧ (s.script = [] ∨ ∃ rest, s.script = .await :: rest)) ∨
    (∃ rest, s.script = .drive p :: rest ∧ h = popMove s) ∨
    (∃ cmd a b rest x y, s.script = .hold cmd a b :: rest ∧ p = Pins.request cmd x y ∧
      h = if s.busy then s else popMove s) ∨
    (∃ m rest r, s.script = m :: rest ∧ (m = .read ∨ m = .await) ∧ p = Pins.idle ∧ h = collect r s) := by
  unfold hostMove at hh
  split at hh
  next hscript => cases hh; exact .inl ⟨rfl, rfl, .inl hscript⟩
  next q rest hscript => cases hh; exact .inr (.inl ⟨rest, hscript, rfl⟩)
  next cmd a b rest hscript =>
    split at hh
    next x y hx hy => cases hh; exact .inr (.inr (.inl ⟨cmd, a, b, rest, x, y, hscript, rfl, rfl⟩))
    next => cases hh
    next => cases hh
  next rest hscript =>
    split at hh
    next => cases hh; exact .inl ⟨rfl, rfl, .inr ⟨rest, hscript⟩⟩
    next =>
      split at hh
      next r hr => cases hh; exact .inr (.inr (.inr ⟨_, rest, r, hscript, .inr rfl, rfl, rfl⟩))
      next => cases hh
  next rest hscript =>
    split at hh
    next r hr => cases hh; exact .inr (.inr (.inr ⟨_, rest, r, hscript, .inl rfl, rfl, rfl⟩))
    next => cases hh

/-- A reset at an edge is the host's own drive move (rule R230). -/
theorem script_of_hostMove_rst {s h : State} {p : Pins} (hh : hostMove s = .ok (p, h)) (hrst : p.rst = true) :
    ∃ rest, s.script = .drive p :: rest := by
  obtain ⟨rfl, -⟩ | ⟨rest, hscript, -⟩ | ⟨_, _, _, _, _, _, -, rfl, -⟩ | ⟨_, _, _, -, -, rfl, -⟩ := hostMove_cases hh
  · cases hrst
  · exact ⟨rest, hscript⟩
  · cases hrst
  · cases hrst

/-- The host keeps a held request on the port of a busy block (rule R234, third hazard). -/
theorem hostMove_hold_of_busy {s h : State} {p : Pins} {cmd : Byte} {a b : HostOperand} {rest : List HostMove}
    (hh : hostMove s = .ok (p, h)) (hscript : s.script = .hold cmd a b :: rest) (hb : s.busy = true) : h = s := by
  obtain ⟨-, hkept, -⟩ | ⟨_, hother, -⟩ | ⟨_, _, _, _, _, _, -, -, hkept⟩ | ⟨m, _, _, hother, hm, -⟩ := hostMove_cases hh
  · exact hkept
  · simp [hscript] at hother
  · simpa [hb] using hkept
  · obtain rfl | rfl := hm <;> simp [hscript] at hother

/-- A host that awaits a response after a reset leaves the ports idle and its script as it is while none is valid (rule
R234, fourth hazard). -/
theorem hostEdge_of_awaiting {s : State} {rest : List HostMove} (hscript : s.script = .await :: rest)
    (hreset : s.wasReset = true) (hvalid : s.rspValid = false) : hostEdge s = .ok (Pins.idle, s) := by
  simp [hostEdge, observe_of_not_valid hvalid, hostMove, hscript, hreset, hvalid]

/-- A read has the response where it is valid and does not hold the code 6 (rules R200, R231, R234). -/
theorem sample_of_valid {s : State} (hreset : s.wasReset = true) (hvalid : s.rspValid = true) (herr : s.rsp.err ≠ 6) :
    sample s = .ok s.rsp := by
  have hcode : ¬s.rsp.err = ErrKind.invalidArgument.code := herr
  simp [sample, hreset, hvalid, hcode]

/-- A move that reads a valid response, at once or after waiting, leaves the ports idle and takes the response. -/
theorem hostEdge_of_reading {s : State} {m : HostMove} {rest : List HostMove} (hscript : s.script = m :: rest)
    (hm : m = .read ∨ m = .await) (hreset : s.wasReset = true) (hvalid : s.rspValid = true) (herr : s.rsp.err ≠ 6) :
    hostEdge s = .ok (Pins.idle, collect s.rsp (observe s)) := by
  have hsample : sample (observe s) = .ok s.rsp := by
    rw [sample_of_valid (by simpa) (by simpa) (by simpa), observe_rsp]
  obtain rfl | rfl := hm <;> simp [hostEdge, hostMove, hscript, hvalid, hsample]

/-- An edge at which the host of an idle block reads a valid response. -/
theorem step_of_reading {s : State} {m : HostMove} {rest : List HostMove} (hscript : s.script = m :: rest)
    (hm : m = .read ∨ m = .await) (hreset : s.wasReset = true) (hvalid : s.rspValid = true) (herr : s.rsp.err ≠ 6)
    (hb : s.busy = false) : step s = .next (collect s.rsp (observe s)) :=
  step_of_idle (hostEdge_of_reading hscript hm hreset hvalid herr) rfl rfl hb

/-- A step of a busy block with no reset waits or completes: the captured request stays, and so does what the host's move
leaves of the script (rule R233). -/
theorem step_of_busy {s h : State} {p : Pins} (hh : hostEdge s = .ok (p, h)) (hrst : p.rst = false) (hb : s.busy = true) :
    ∃ t, step s = .next t ∧ t.curCmd = s.curCmd ∧ t.curA = s.curA ∧ t.curB = s.curB ∧ t.script = h.script := by
  obtain ⟨-, -, -, hcmd, hA, hB, -⟩ := hostEdge_keeps hh
  by_cases hw : s.wait = 0
  · exact ⟨_, step_of_due hh hrst hb hw, hcmd, hA, hB, rfl⟩
  · exact ⟨_, step_of_wait hh hrst hb hw, hcmd, hA, hB, rfl⟩

/-- Settles O12: such an edge is a reset that the host drives, or it waits or completes, and a busy block's host keeps a held
request on the port. -/
theorem busyBlockAcceptsNothing : Obligations.BusyBlockAcceptsNothing := by
  unfold Obligations.BusyBlockAcceptsNothing
  intro s t hb hstep
  obtain ⟨f, -, hfault⟩ | ⟨p, h, hh, -⟩ := step_cases s
  · simp [hfault] at hstep
  cases hrst : p.rst with
  | true =>
    obtain ⟨rest, hscript⟩ := script_of_hostMove_rst hh hrst
    exact .inl ⟨p, rest, (observe_script s).symm.trans hscript, hrst⟩
  | false =>
    obtain ⟨u, hu, hcmd, hA, hB, hkept⟩ := step_of_busy hh hrst hb
    obtain rfl := Host.Outcome.next.inj (hu.symm.trans hstep)
    refine .inr ⟨hcmd, hA, hB, fun c a b rest hscript => ?_⟩
    have hobs : (observe s).script = .hold c a b :: rest := (observe_script s).trans hscript
    have hsame : h = observe s := hostMove_hold_of_busy hh hobs ((observe_busy s).trans hb)
    rw [hkept, hsame, observe_script]

/-- Settles O25: each read takes the response registers, and the second finds the response noted already. -/
theorem readingClearsNothing : Obligations.ReadingClearsNothing := by
  unfold Obligations.ReadingClearsNothing
  intro s m m' rest hinv hreset hvalid hm hm' hscript
  obtain ⟨⟨herr, -⟩, hexcl, -⟩ := hinv
  have hb : s.busy = false := by
    cases hb : s.busy with
    | false => rfl
    | true => simp [hexcl hb] at hvalid
  have hfirst : step s = .next (collect s.rsp (observe s)) := step_of_reading hscript hm hreset hvalid herr hb
  have hsecond : step (collect s.rsp (observe s)) = .next (collect s.rsp (collect s.rsp (observe s))) := by
    rw [step_of_reading (m := m') (rest := rest) (by simp [hscript]) hm' (by simpa) (by simpa) (by simpa) (by simpa),
      observe_collect, observe_idem, collect_rsp, observe_rsp]
  refine ⟨_, ?_, rfl⟩
  rw [run_succ_of_next 1 hfirst, run_succ_of_next 0 hsecond, run_zero]
  simp [collect, hscript]

/-! ### The bytes of `rsp_str` -/

/-- The packing of a list of bytes, the first one least significant (rule R42). -/
def packBytes (cs : List Byte) : BitVec 128 := cs.foldr (fun c acc => acc <<< 8 ||| c.setWidth 128) 0

theorem packStr_eq_packBytes (v : Vector Byte 16) : packStr v = packBytes v.toList := rfl

theorem packBytes_cons (c : Byte) (cs : List Byte) : packBytes (c :: cs) = packBytes cs <<< 8 ||| c.setWidth 128 := rfl

/-- The first byte packed is the least significant. -/
theorem packBytes_cons_low (c : Byte) (cs : List Byte) : (packBytes (c :: cs)).extractLsb' 0 8 = c := by
  ext j hj
  rw [packBytes_cons]
  simp [hj]
  omega

/-- Byte `i + 1` of the packing is byte `i` of the packing without the first. -/
theorem packBytes_cons_high (c : Byte) (cs : List Byte) {i : Nat} (hi : i + 1 < 16) :
    (packBytes (c :: cs)).extractLsb' (8 * (i + 1)) 8 = (packBytes cs).extractLsb' (8 * i) 8 := by
  ext j hj
  rw [packBytes_cons]
  have hin : 8 * (i + 1) + j < 128 := by omega
  have hpast : ¬8 * (i + 1) + j < 8 := by omega
  have hsub : 8 * (i + 1) + j - 8 = 8 * i + j := by omega
  have hchar : c.getLsbD (8 * (i + 1) + j) = false := BitVec.getLsbD_of_ge _ _ (Nat.le_of_not_lt hpast)
  simp [hin, hpast, hsub, hchar, ← BitVec.getLsbD_eq_getElem]

/-- Byte `i` of a packing is character `i`, and zero past the end of the list. -/
theorem packBytes_byte (cs : List Byte) {i : Nat} (hi : i < 16) :
    (packBytes cs).extractLsb' (8 * i) 8 = cs.getD i 0 := by
  induction cs generalizing i with
  | nil => simp [packBytes]
  | cons c cs ih =>
    cases i with
    | zero => exact packBytes_cons_low c cs
    | succ i =>
      rw [packBytes_cons_high c cs hi, ih (Nat.lt_of_succ_lt hi)]
      rfl

/-- `STR[i]` is on `rsp_str[8i+7:8i]` (rule R42). -/
theorem packStr_byte (v : Vector Byte 16) (i : Fin 16) : (packStr v).extractLsb' (8 * i.val) 8 = v[i] := by
  rw [packStr_eq_packBytes, packBytes_byte _ i.isLt]
  simp

/-- A little-endian store puts byte `i` of `rsp_str` at `p + i` (rule R42). -/
theorem storeRspStr_get (p : Nat) (v : BitVec 128) (i : Fin 16) :
    (storeRspStr p v)[i.val]? = some (p + i.val, v.extractLsb' (8 * i.val) 8) := by
  simp [storeRspStr]

/-- Settles O23: the port is the packing of `STR`, whose byte `i` is `STR[i]`. -/
theorem stringPackedLeastByteFirst : Obligations.StringPackedLeastByteFirst := by
  unfold Obligations.StringPackedLeastByteFirst
  intro s i
  have hbyte : (outPorts s).rspStr.extractLsb' (8 * i.val) 8 = s.rsp.str[i] := packStr_byte s.rsp.str i
  refine ⟨hbyte, fun p => ?_⟩
  rw [storeRspStr_get, hbyte]

end Sys2Proof.Machine
end

section
/-! PROOFS. A listing on the clocked machine: the host presents each request, awaits its response and reads what `Execute`
alone gives (rules R46, R67, R68, R233, R234, R235). -/

namespace Sys2Proof.Machine

/-! ### Operands and the responses the host knows -/

/-- `$k` has the word of the response found for request `k` (rule R68). -/
theorem resolve_result_of_find {known : List NumberedResponse} {k : Nat} {c : NumberedResponse} (hk : k ≠ 0)
    (hfind : known.find? (fun c => c.request == k) = some c) : resolve known (.result k) = .ok c.response.result := by
  simp [resolve, hk, hfind]

/-- An operand that has a word keeps it when the host notes one more response. -/
theorem resolve_append {known : List NumberedResponse} {o : HostOperand} {w : Word} (c : NumberedResponse)
    (hok : resolve known o = .ok w) : resolve (known ++ [c]) o = .ok w := by
  cases o with
  | word v => exact hok
  | result k =>
    simp only [resolve] at hok
    split at hok
    next => cases hok
    next hk =>
      split at hok
      next d hfind =>
        cases hok
        exact resolve_result_of_find hk (by rw [List.find?_append, hfind]; rfl)
      next => cases hok

/-- The request noted last is the one its number names, where no response was known for it before. -/
theorem resolve_append_new {known : List NumberedResponse} {n : Nat} (r : Response) (hn : n ≠ 0)
    (hnew : ∀ c ∈ known, c.request ≠ n) : resolve (known ++ [⟨n, r⟩]) (.result n) = .ok r.result := by
  have hnone : known.find? (fun c => c.request == n) = none :=
    List.find?_eq_none.2 fun c hc => by simpa using hnew c hc
  exact resolve_result_of_find (c := ⟨n, r⟩) hn (by simp [List.find?_append, hnone])

/-- The response to a request after those in `done` is what `$k` with the next number names, and every other operand
stands for what it did. -/
theorem listingWord_append_cases {done : List Response} {r : Response} {o : HostOperand} {w : Word}
    (hw : listingWord (done ++ [r]) o = some w) :
    listingWord done o = some w ∨ (o = .result (done.length + 1) ∧ w = r.result) := by
  cases o with
  | word v => exact .inl hw
  | result k =>
    cases k with
    | zero => cases hw
    | succ k =>
      simp only [listingWord] at hw ⊢
      obtain hlt | rfl | hgt := Nat.lt_trichotomy k done.length
      · rw [List.getElem?_append_left hlt] at hw
        exact .inl hw
      · exact .inr ⟨rfl, by simpa using hw.symm⟩
      · have hpast : (done ++ [r])[k]? = none := List.getElem?_eq_none (by simpa using hgt)
        simp [hpast] at hw

/-- The host knows the responses to the first requests of a listing: every operand that they give a word to has that word on
the ports, and no number is past theirs. -/
structure KnowsResponses (known : List NumberedResponse) (done : List Response) : Prop where
  operand : ∀ {o w}, listingWord done o = some w → resolve known o = .ok w
  number : ∀ c ∈ known, c.request ≤ done.length

/-- Before a listing's first request, `$k` has no word. -/
theorem knowsResponses_nil : KnowsResponses [] [] where
  operand {o w} hw := by
    cases o with
    | word v => simpa [listingWord, resolve] using hw
    | result k => cases k <;> simp [listingWord] at hw
  number := by simp

/-- The host notes the response to a listing's next request under its number. -/
theorem KnowsResponses.note_next {known : List NumberedResponse} {done : List Response} (hk : KnowsResponses known done)
    (r : Response) : KnowsResponses (noteResponse (done.length + 1) r known) (done ++ [r]) := by
  have hnew : ∀ c ∈ known, c.request ≠ done.length + 1 := fun c hc => Nat.ne_of_lt (Nat.lt_succ_of_le (hk.number c hc))
  rw [noteResponse_of_new r hnew]
  refine ⟨fun {o w} hw => ?_, fun c hc => ?_⟩
  · obtain hold | ⟨rfl, rfl⟩ := listingWord_append_cases hw
    · exact resolve_append _ (hk.operand hold)
    · exact resolve_append_new r (Nat.succ_ne_zero _) hnew
  · obtain hc | hc := List.mem_append.1 hc
    · simpa using Nat.le_succ_of_le (hk.number c hc)
    · simp [List.mem_singleton.1 hc]

/-- What the host sees of a response that is still valid, or of the registers before its first request, takes nothing from
what it knows. -/
theorem KnowsResponses.note_again {known : List NumberedResponse} {done : List Response} (hk : KnowsResponses known done)
    (r : Response) : KnowsResponses (noteResponse done.length r known) done := by
  unfold noteResponse
  split
  next => exact hk
  next =>
    refine ⟨fun hw => resolve_append _ (hk.operand hw), fun c hc => ?_⟩
    obtain hc | hc := List.mem_append.1 hc
    · exact hk.number c hc
    · simp [List.mem_singleton.1 hc]

/-! ### One request -/

/-- A held request of an idle block, its operands known, is accepted at once with their words (rules R68, R233). -/
theorem step_of_hold {s : State} {cmd : Byte} {a b : HostOperand} {x y : Word} {rest : List HostMove}
    (hscript : s.script = .hold cmd a b :: rest) (ha : resolve (observe s).results a = .ok x)
    (hb : resolve (observe s).results b = .ok y) (hbusy : s.busy = false) :
    step s = .next (acceptRequest (Pins.request cmd x y) (popMove (observe s))) := by
  have hh : hostEdge s = .ok (Pins.request cmd x y, popMove (observe s)) := by
    simp [hostEdge, hostMove, hscript, ha, hb, hbusy]
  exact step_of_accept hh rfl rfl hbusy

/-- The state in which the captured request has been waited for and completes with `Execute` of it (rules R22, R67). -/
def dueCompletion (s : State) : State := complete (execute s.curCmd s.curA s.curB) { s with wait := 0 }

/-- A host that awaits the captured request's response waits until the edge that completes it, and nothing else changes
(rules R46, R233, R234). -/
theorem run_awaits {s : State} {rest : List HostMove} (hscript : s.script = .await :: rest) (hreset : s.wasReset = true)
    (hvalid : s.rspValid = false) (hb : s.busy = true) :
    core.run (s.wait + 1) s = .next (dueCompletion s) := by
  induction hw : s.wait generalizing s with
  | zero =>
    have hstep := step_of_due (hostEdge_of_awaiting hscript hreset hvalid) rfl hb hw
    rw [run_succ_of_next 0 hstep, run_zero, dueCompletion, ← hw]
  | succ n ih =>
    have hstep : step s = .next (waitEdge s) :=
      step_of_wait (hostEdge_of_awaiting hscript hreset hvalid) rfl hb (by omega)
    rw [run_succ_of_next (n + 1) hstep]
    exact ih (s := waitEdge s) hscript hreset hvalid hb (by simp [hw])

/-- `Execute` never reports the code 6 (rule R200). -/
theorem execute_err_ne_six (cmd : Byte) (a b : Word) : (execute cmd a b).err ≠ 6 := by
  rw [execute_eq_decodedResponse]
  cases decode cmd with
  | instr i => exact (commandResponse_inv i a b).1
  | illegal why => exact (Response.ofError_inv (e := .illegalCommand) (by decide)).1

/-- The state a host has awaited the captured request's response in: the request is complete, its response read and noted under
the request's number. -/
def awaited (s : State) : State :=
  let r := execute s.curCmd s.curA s.curB
  { s with
    rsp := r, rspValid := true, busy := false, wait := 0
    script := s.script.tail, seen := s.seen ++ [r], results := noteResponse s.accepted r s.results }

/-- A host that awaits the captured request's response reads it at the edge after the one that completes it. -/
theorem run_awaited {s : State} {rest : List HostMove} (hscript : s.script = .await :: rest) (hreset : s.wasReset = true)
    (hvalid : s.rspValid = false) (hb : s.busy = true) : core.run (s.wait + 1 + 1) s = .next (awaited s) := by
  have hread : step (dueCompletion s) = .next (awaited s) := by
    rw [step_of_reading (s := dueCompletion s) hscript (.inr rfl) hreset rfl (execute_err_ne_six s.curCmd s.curA s.curB) rfl,
      observe_of_valid (s := dueCompletion s) hreset rfl]
    rfl
  rw [run_add_of_next 1 (run_awaits hscript hreset hvalid hb), run_succ_of_next 0 hread, run_zero]

/-- The block between two requests of a listing: idle, with `done` the responses read so far, all of them known, and the
requests `reqs` to come. -/
structure BetweenRequests (done : List Response) (reqs : List HostRequest) (s : State) : Prop where
  script : s.script = listingScript reqs
  seen : s.seen = done
  accepted : s.accepted = done.length
  known : KnowsResponses s.results done
  busy : s.busy = false
  wasReset : s.wasReset = true

/-- What the host knows at the next edge gives the operands their words too. -/
theorem BetweenRequests.knows_at_edge {done : List Response} {reqs : List HostRequest} {s : State}
    (hs : BetweenRequests done reqs s) : KnowsResponses (observe s).results done := by
  rw [observe_results]
  split
  next => exact hs.accepted ▸ hs.known.note_again s.rsp
  next => exact hs.known

/-- One request of a listing: accepted, completed with `Execute` of its words, awaited and read. -/
theorem BetweenRequests.run_request {done : List Response} {r : HostRequest} {rest : List HostRequest} {s : State} {x y : Word}
    (hs : BetweenRequests done (r :: rest) s) (ha : listingWord done r.a = some x) (hb : listingWord done r.b = some y) :
    ∃ k t, core.run k s = .next t ∧ BetweenRequests (done ++ [execute r.cmd x y]) rest t := by
  have hknows := hs.knows_at_edge
  have haccept := step_of_hold hs.script (hknows.operand ha) (hknows.operand hb) hs.busy
  have hawaited := run_awaited (s := acceptRequest (Pins.request r.cmd x y) (popMove (observe s)))
    (rest := listingScript rest) (by simp [hs.script, listingScript]) (by simp [hs.wasReset]) rfl rfl
  refine ⟨_, _, (run_succ_of_next _ haccept).trans hawaited, ?_, ?_, ?_, ?_, rfl, ?_⟩
  · simp [awaited, hs.script, listingScript]
  · simp [awaited, hs.seen, Pins.request]
  · simp [awaited, hs.accepted]
  · simpa [awaited, hs.accepted, Pins.request] using hknows.note_next (execute r.cmd x y)
  · simp [awaited, hs.wasReset]

/-- A listing runs to its end, request by request. -/
theorem BetweenRequests.run_listing {done rs : List Response} {reqs : List HostRequest} {s : State}
    (hs : BetweenRequests done reqs s) (hrs : listingResponses done reqs = some rs) :
    ∃ k t, core.run k s = .next t ∧ BetweenRequests rs [] t := by
  induction reqs generalizing done s with
  | nil =>
    obtain rfl := Option.some.inj hrs
    exact ⟨0, s, rfl, hs⟩
  | cons r rest ih =>
    rw [listingResponses] at hrs
    split at hrs
    next x y ha hb =>
      obtain ⟨j, u, hfirst, hu⟩ := hs.run_request ha hb
      obtain ⟨k, t, hrest, ht⟩ := ih hu hrs
      exact ⟨j + k, t, (run_add_of_next k hfirst).trans hrest, ht⟩
    next => cases hrs

/-- Settles O17: the listing's start is between requests with no response read, and its end is so with all of them read. -/
theorem listingCollectsExecuteResponses : Obligations.ListingCollectsExecuteResponses := by
  unfold Obligations.ListingCollectsExecuteResponses
  intro reqs rs s hrs hscript hseen hresults haccepted hbusy hreset
  have hstart : BetweenRequests [] reqs s :=
    ⟨hscript, hseen, haccepted, hresults ▸ knowsResponses_nil, hbusy, hreset⟩
  obtain ⟨k, t, hrun, ht⟩ := hstart.run_listing hrs
  exact ⟨k, t, hrun, ht.seen, ht.script, ht.busy⟩

end Sys2Proof.Machine
end

section
/-! PROOFS. The command word: its three fields, what the decoder reads from them and how the encoder writes them; and what
a legal or an illegal word's completion answers (rules R60 to R67). -/

namespace Sys2Proof

open Machine

/-! ### The decoder and the encoder, field by field -/

/-- The decoder reads a command exactly where `RSV` is zero and the other two fields are the command's (rules R61, R62). -/
theorem decode_eq_instr_iff (w : Byte) (i : Instr) :
    decode w = .instr i ↔ cmdRsv w = 0 ∧ cmdOp w = i.op ∧ (cmdPrec w).toNat = i.prec := by
  constructor
  · intro h
    unfold decode at h
    split at h
    next => cases h
    next hrsv =>
      refine ⟨not_not.1 hrsv, ?_⟩
      dsimp only at h
      split at h <;> cases h <;> exact ⟨BitVec.eq_of_toNat_eq ‹_›, rfl⟩
  · rintro ⟨hrsv, hop, hprec⟩
    cases i <;> simp only [Instr.op, Instr.prec] at hop hprec <;> simp [decode, hrsv, hop, hprec]

/-- The encoder writes the command's fields, whatever the command (rule R61). -/
theorem encode_fields (i : Instr) : Laws.Encoding.Statement i := Laws.Encoding.fields_of_append _ _

/-- A command word is its three fields, upper bits first (rule R61). -/
theorem eq_append_fields (w : Byte) : w = (cmdRsv w ++ cmdPrec w ++ cmdOp w : BitVec (2 + 3 + 3)) := by
  revert w
  decide

/-- Settles O1: the encoded word's fields are the command's, and a well-formed precision is not masked. -/
theorem decodeOfEncode : Obligations.DecodeOfEncode := by
  unfold Obligations.DecodeOfEncode
  intro i hwf
  obtain ⟨hop, hprec, hrsv⟩ := encode_fields i
  have hfits : i.prec < 8 := of_decide_eq_true hwf
  exact (decode_eq_instr_iff _ i).2 ⟨hrsv, hop, by rw [hprec, BitVec.toNat_ofNat, Nat.mod_eq_of_lt hfits]⟩

/-- Settles O2: the command's fields are those of the word, and a word is its fields. -/
theorem encodeOfDecode : Obligations.EncodeOfDecode := by
  unfold Obligations.EncodeOfDecode
  intro w i hdecode
  obtain ⟨hrsv, hop, hprec⟩ := (decode_eq_instr_iff w i).1 hdecode
  refine ⟨decide_eq_true (hprec ▸ (cmdPrec w).isLt), ?_⟩
  rw [encode, ← hprec, ← hop, BitVec.ofNat_toNat, BitVec.setWidth_eq]
  conv_rhs => rw [eq_append_fields w, hrsv]
  rfl

/-- Settles O3: each word's fields, read off its bits, are the command's, or show why it is illegal. -/
theorem sampleWordsDecode : Obligations.SampleWordsDecode := by
  unfold Obligations.SampleWordsDecode
  decide

/-! ### Legal words and the opcode table -/

/-- Two commands have the same mnemonic exactly where they have the same `OP` (rule R62). -/
theorem mnemonic_eq_iff_op_eq (i j : Instr) : i.mnemonic = j.mnemonic ↔ i.op = j.op := by
  cases i <;> cases j <;> simp [Instr.mnemonic, Instr.op]

/-- For every `OP` but `111` there is a command, with any precision. -/
theorem exists_instr_of_op (op : BitVec 3) (hop : op ≠ 7) (p : Nat) : ∃ i : Instr, i.op = op ∧ i.prec = p := by
  have hops : op = 0 ∨ op = 1 ∨ op = 2 ∨ op = 3 ∨ op = 4 ∨ op = 5 ∨ op = 6 := by
    revert op
    decide
  obtain rfl | rfl | rfl | rfl | rfl | rfl | rfl := hops
  · exact ⟨.adds p, rfl, rfl⟩
  · exact ⟨.subs p, rfl, rfl⟩
  · exact ⟨.mul p, rfl, rfl⟩
  · exact ⟨.div p, rfl, rfl⟩
  · exact ⟨.f2q p, rfl, rfl⟩
  · exact ⟨.q2f p, rfl, rfl⟩
  · exact ⟨.fmt p, rfl, rfl⟩

theorem op_ne_reserved (i : Instr) : i.op ≠ 0b111#3 := by
  cases i <;> simp [Instr.op]

/-- A word is legal exactly where `OP` is not `111` and `RSV` is `00` (rule R65). -/
theorem exists_decode_iff (w : Byte) : (∃ i, decode w = .instr i) ↔ ¬(cmdOp w = 0b111#3 ∨ cmdRsv w ≠ 0b00#2) := by
  constructor
  · rintro ⟨i, hi⟩
    obtain ⟨hrsv, hop, -⟩ := (decode_eq_instr_iff w i).1 hi
    exact not_or.2 ⟨hop ▸ op_ne_reserved i, not_not.2 hrsv⟩
  · intro hlegal
    obtain ⟨hop, hrsv⟩ := not_or.1 hlegal
    obtain ⟨i, hiop, hiprec⟩ := exists_instr_of_op (cmdOp w) hop (cmdPrec w).toNat
    exact ⟨i, (decode_eq_instr_iff w i).2 ⟨not_not.1 hrsv, hiop.symm, hiprec.symm⟩⟩

/-- A word decodes to a command with another's mnemonic exactly where `RSV` is zero and `OP` is that command's. -/
theorem decode_mnemonic_iff (w : Byte) (j : Instr) :
    (decode w).toOption.map Instr.mnemonic = some j.mnemonic ↔ cmdRsv w = 0 ∧ cmdOp w = j.op := by
  cases hd : decode w with
  | instr i =>
    obtain ⟨hrsv, hop, -⟩ := (decode_eq_instr_iff w i).1 hd
    simp [Decoded.toOption, mnemonic_eq_iff_op_eq, hrsv, hop]
  | illegal why =>
    simp only [Decoded.toOption, Option.map_none, reduceCtorEq, false_iff]
    rintro ⟨hrsv, hop⟩
    obtain ⟨i, hi⟩ := (exists_decode_iff w).2 (not_or.2 ⟨hop ▸ op_ne_reserved j, not_not.2 hrsv⟩)
    simp [hd] at hi

/-- The mask `0xC7` leaves the `RSV` and `OP` fields of a word (rule R64). -/
theorem and_mask_eq_iff (w : Byte) (op : BitVec 3) : w &&& 0xC7 = op.setWidth 8 ↔ cmdRsv w = 0 ∧ cmdOp w = op := by
  revert w op
  decide

/-- Each row of the opcode table is one command's: its mnemonic, and its `OP` under the mask of `RSV` and `OP`. -/
theorem row_of_mem_opcodeTable {r : TableRow} (hr : r ∈ opcodeTable) :
    ∃ i : Instr, r = ⟨i.mnemonic, i.op.setWidth 8, 0xC7⟩ := by
  simp only [opcodeTable, List.mem_cons, List.not_mem_nil, or_false] at hr
  obtain rfl | rfl | rfl | rfl | rfl | rfl | rfl := hr
  · exact ⟨.adds 0, rfl⟩
  · exact ⟨.subs 0, rfl⟩
  · exact ⟨.mul 0, rfl⟩
  · exact ⟨.div 0, rfl⟩
  · exact ⟨.f2q 0, rfl⟩
  · exact ⟨.q2f 0, rfl⟩
  · exact ⟨.fmt 0, rfl⟩

/-- Settles O4: a row owns the words whose `RSV` is zero and whose `OP` is its command's. -/
theorem decoderFollowsOpcodeTable : Obligations.DecoderFollowsOpcodeTable := by
  unfold Obligations.DecoderFollowsOpcodeTable
  intro r hr w
  obtain ⟨i, rfl⟩ := row_of_mem_opcodeTable hr
  rw [TableRow.owns, beq_iff_eq, and_mask_eq_iff, decode_mnemonic_iff]

/-! ### The completion of a legal or an illegal word -/

/-- The legal command words among all 256, counted (rule R65). -/
theorem legal_words_count : ((List.range 256).filter fun n => (decode (BitVec.ofNat 8 n)).toOption.isSome).length = 56 := by
  decide

/-- The other command words are the illegal ones (rule R65). -/
theorem illegal_words_count : ((List.range 256).filter fun n => (decode (BitVec.ofNat 8 n)).toOption.isNone).length = 200 := by
  have hsplit := List.length_eq_length_filter_add (l := List.range 256)
    fun n => (decode (BitVec.ofNat 8 n)).toOption.isSome
  simp only [legal_words_count, List.length_range, Option.not_isSome] at hsplit
  omega

/-- `Execute` of an illegal word is IllegalCommand's response, whatever the operands (rules R65, R67). -/
theorem execute_of_illegal {w : Byte} (hw : cmdOp w = 0b111#3 ∨ cmdRsv w ≠ 0b00#2) (a b : Word) :
    execute w a b = Response.ofError .illegalCommand :=
  if_pos hw.symm

/-- A completion with an error's response answers that error's code (rule R201). -/
theorem answersError_complete (e : ErrKind) (s : State) : AnswersError (complete (Response.ofError e) s) e.code :=
  ⟨completed_complete _ s, rfl, rfl, rfl, strOfChars_nil_get⟩

/-- Settles O5: the step is the completion with `Execute` of the word, which is IllegalCommand's response. -/
theorem illegalCommandReportsCode7 : Obligations.IllegalCommandReportsCode7 := by
  unfold Obligations.IllegalCommandReportsCode7
  refine ⟨exists_decode_iff, legal_words_count, illegal_words_count, fun s h p hh hrst hb hw hillegal => ?_⟩
  have hstep := step_of_due hh hrst hb hw
  rw [execute_of_illegal hillegal] at hstep
  exact ⟨_, hstep, answersError_complete .illegalCommand h, rfl, keepsRest_complete _ h⟩

/-- Settles O7: the edge is the due one, and its step completes with `Execute` of the captured request. -/
theorem completionIsExecute : Obligations.CompletionIsExecute := by
  unfold Obligations.CompletionIsExecute
  intro s h p hh hrst hb hw
  exact ⟨_, step_of_due hh hrst hb hw, complete_rsp _ h, completed_complete _ h, keepsRest_complete _ h⟩

/-! ### Fields and operands that a command ignores -/

/-- The response of a command that does not read `B` is the same for any two values of it (rule R63). -/
theorem commandResponse_of_not_readsB {i : Instr} (hi : i.readsB = false) (a b c : Word) :
    commandResponse i a b = commandResponse i a c := by
  cases i with
  | f2q p => rfl
  | q2f p => rfl
  | fmt p => rfl
  | _ => cases hi

/-- Settles O28: a command's response is that of its operands, and such a command's does not depend on `B`. -/
theorem unaryCommandsIgnoreB : Obligations.UnaryCommandsIgnoreB := by
  unfold Obligations.UnaryCommandsIgnoreB
  intro i s b hi
  exact ⟨_, _, exec_eq_complete i s, exec_eq_complete i _, commandResponse_of_not_readsB hi s.curA s.curB b⟩

/-- Settles O29: each of the six meanings takes `PREC` and leaves it unread. -/
theorem onlyFmtReadsPrec : Obligations.OnlyFmtReadsPrec := by
  unfold Obligations.OnlyFmtReadsPrec
  exact fun p q s => ⟨rfl, rfl, rfl, rfl, rfl, rfl⟩

end Sys2Proof
end

section
/-! PROOFS. The operand `$k`: which response the host knows under a request's number (rules R68, R234). -/

namespace Sys2Proof.Machine

/-- Where the known numbers rise, the response found under a known number is the one known by it. -/
theorem find_request_of_mem {known : List NumberedResponse} {c : NumberedResponse}
    (hrise : known.Pairwise fun c d => c.request < d.request) (hc : c ∈ known) :
    known.find? (fun d => d.request == c.request) = some c := by
  induction known with
  | nil => cases hc
  | cons d rest ih =>
    obtain ⟨hd, hrest⟩ := List.pairwise_cons.1 hrise
    obtain rfl | hc := List.mem_cons.1 hc
    · simp
    · have hne : ¬d.request = c.request := (hd c hc).ne
      simpa [List.find?_cons, hne] using ih hrest hc

/-- `$k` has no word before a response is known for request `k` (log entry 9). -/
theorem resolve_result_of_unknown {known : List NumberedResponse} {k : Nat} (hk : ∀ c ∈ known, c.request ≠ k) :
    resolve known (.result k) = .error .resultNotReady := by
  have hnone : known.find? (fun c => c.request == k) = none :=
    List.find?_eq_none.2 fun c hc => by simpa using hk c hc
  simp [resolve, hnone]

/-- A valid response is noted, or another is known under its number already. -/
theorem exists_mem_noteResponse (n : Nat) (r : Response) (known : List NumberedResponse) :
    ∃ c ∈ noteResponse n r known, c.request = n := by
  by_cases hknown : ∃ c ∈ known, c.request = n
  · obtain ⟨c, hc, hn⟩ := hknown
    exact ⟨c, (noteResponse_of_mem r hc hn).symm ▸ hc, hn⟩
  · rw [noteResponse_of_new r fun c hc hn => hknown ⟨c, hc, hn⟩]
    exact ⟨⟨n, r⟩, List.mem_append_right _ (List.mem_singleton_self _), rfl⟩

/-- A response that is valid is known under the number of the last accepted request (log entry 14). -/
theorem mem_observe_of_valid {s : State} (hs : s.Inv) (hreset : s.wasReset = true) (hvalid : s.rspValid = true) :
    ⟨s.accepted, s.rsp⟩ ∈ (observe s).results := by
  obtain ⟨-, -, -, -, -, -, hlast⟩ := observe_inv hs
  obtain ⟨c, hc, hn⟩ := exists_mem_noteResponse s.accepted s.rsp s.results
  have hmem : c ∈ (observe s).results := by rwa [observe_of_valid hreset hvalid]
  have hrsp : c.response = s.rsp := by simpa using hlast (by simpa) c hmem (by simpa)
  rwa [← hn, ← hrsp]

/-- Settles O60: `$k` faults while no response is known for request `k`; the known numbers rise, so that the one found for
`k` is request `k`'s; and a valid response is among those known. -/
theorem resultOperandIsOfItsRequest : Obligations.ResultOperandIsOfItsRequest := by
  unfold Obligations.ResultOperandIsOfItsRequest
  refine ⟨fun s cmd k b rest hscript hunknown => ?_, fun s cmd c b rest hinv hbusy hscript hzero hc => ?_,
    fun s => mem_observe_of_valid⟩
  · refine step_of_hostEdge_error ?_
    simp [hostEdge, hostMove, hscript, resolve_result_of_unknown hunknown]
  · obtain ⟨-, -, -, hrise, -⟩ := observe_inv hinv
    have hword := resolve_result_of_find hzero (find_request_of_mem hrise hc)
    exact ⟨_, step_of_hold hscript hword rfl hbusy, rfl, rfl, rfl, rfl, by simp, by simp [hscript]⟩

end Sys2Proof.Machine
end

section
/-! PROOFS. The assembler: the digits of a number, the word of each operand, which listings it takes, and the requests of
the line forms and the pseudo-instructions (rules R68, R69). -/

namespace Sys2Proof.Machine

/-! ### Which listings assemble -/

@[simp] theorem argOperand_isSome (k : Nat) (a : Arg) : (argOperand k a).isSome = a.wellFormed k := by
  cases a with
  | hex ds => simp [argOperand, Arg.wellFormed, apply_ite Option.isSome]
  | dec neg whole frac => simp [argOperand, decWord, decNumerator, Config.fractionalBits, Arg.wellFormed, apply_ite Option.isSome]
  | res j => simp [argOperand, Arg.wellFormed, apply_ite Option.isSome]

@[simp] theorem rawWord_isSome (n : Nat) (ds : List (Fin 16)) : (rawWord n ds).isSome = rawWellFormed n ds := by
  simp [rawWord, rawWellFormed, apply_ite Option.isSome]

/-- A request with two operands is one exactly where both have a word or a request to name. -/
@[simp] theorem request2_isSome (k : Nat) (cmd : Byte) (a b : Arg) :
    (request2 k cmd a b).isSome = (a.wellFormed k && b.wellFormed k) := by
  rw [← argOperand_isSome, ← argOperand_isSome, request2]
  cases argOperand k a <;> cases argOperand k b <;> rfl

@[simp] theorem request1_isSome (k : Nat) (cmd : Byte) (a : Arg) : (request1 k cmd a).isSome = a.wellFormed k := by
  simp [request1]

@[simp] theorem argZero_wellFormed (k : Nat) : argZero.wellFormed k = true := rfl
@[simp] theorem argOne_wellFormed (k : Nat) : argOne.wellFormed k = true := rfl

/-- A line encodes a request exactly where it is well formed. -/
theorem lineRequest_isSome (k : Nat) (l : Line) : (lineRequest k l).isSome = l.wellFormed k := by
  cases l with
  | fmt a p => by_cases hp : p < 8 <;> simp [lineRequest, Line.wellFormed, hp]
  | req c a b =>
    rw [Line.wellFormed, ← rawWord_isSome, ← rawWord_isSome, ← rawWord_isSome, lineRequest]
    cases rawWord 2 c <;> cases rawWord 8 a <;> cases rawWord 8 b <;> rfl
  | _ => simp [lineRequest, Line.wellFormed]

/-- A listing assembles exactly where each line does, at its own number. -/
theorem assemble_isSome (k : Nat) (lines : List Line) : (assemble k lines).isSome = listingWellFormed k lines := by
  induction lines generalizing k with
  | nil => rfl
  | cons l rest ih =>
    rw [listingWellFormed, ← lineRequest_isSome, ← ih, assemble]
    cases lineRequest k l <;> cases assemble (k + 1) rest <;> rfl

/-- Settles O59: line by line, by induction on the listing. -/
theorem assemblerTakesWellFormedListings : Obligations.AssemblerTakesWellFormedListings := by
  unfold Obligations.AssemblerTakesWellFormedListings
  intro k lines
  rw [assemble_isSome]

/-! ### The words of operands -/

/-- Digits read first to last are the digits of the number, last first. -/
theorem digitsValue_eq_ofDigits (base : Nat) (ds : List Nat) : digitsValue base ds = Nat.ofDigits base ds.reverse := by
  rw [Nat.ofDigits_eq_foldr, List.foldr_reverse]
  simp [digitsValue, Nat.mul_comm, Nat.add_comm]

theorem hexWord_eq (ds : List (Fin 16)) : hexWord ds = BitVec.ofNat 32 (Nat.ofDigits 16 (ds.map Fin.val).reverse) := by
  rw [hexWord, digitsValue_eq_ofDigits]

theorem rawWord_eq {n : Nat} {ds : List (Fin 16)} (h1 : 1 ≤ ds.length) (hn : ds.length ≤ n) :
    rawWord n ds = some (BitVec.ofNat 32 (Nat.ofDigits 16 (ds.map Fin.val).reverse)) := by
  rw [rawWord, if_pos ⟨h1, hn⟩, hexWord_eq]

/-- A natural number with the sign of a decimal operand. -/
def withSign (negative : Bool) (n : Nat) : ℤ := if negative then -(n : ℤ) else n

theorem cast_withSign (negative : Bool) (n : Nat) : (withSign negative n : ℚ) = (if negative then -1 else 1) * n := by
  cases negative <;> simp [withSign]

/-- The integers that raw words stand for (rule R68). -/
def InRawRange (n : ℤ) : Prop := -2 ^ 31 ≤ n ∧ n ≤ 2 ^ 31 - 1

/-- Each sign has its own bound on the magnitude of a raw word. -/
theorem inRawRange_withSign_iff (negative : Bool) (q : Nat) :
    InRawRange (withSign negative q) ↔ q ≤ if negative then 0x80000000 else 0x7FFFFFFF := by
  cases negative <;> simp only [InRawRange, withSign, if_true, if_false, Bool.false_eq_true] <;> omega

/-- An integer times a positive `d` is a signed number exactly where `d` divides its magnitude and the integer is the
quotient with its sign. -/
theorem withSign_eq_mul_iff (negative : Bool) (m : Nat) {d : Nat} (hd : 0 < d) (n : ℤ) :
    withSign negative m = n * d ↔ m % d = 0 ∧ n = withSign negative (m / d) := by
  have hquot (j : ℤ) : (m : ℤ) = j * d ↔ m % d = 0 ∧ j = (m / d : Nat) := by
    constructor
    · intro h
      have hdvd : d ∣ m := Int.natCast_dvd_natCast.1 ⟨j, h.trans (mul_comm _ _)⟩
      refine ⟨Nat.mod_eq_zero_of_dvd hdvd, ?_⟩
      rw [Int.natCast_ediv, h, Int.mul_ediv_cancel _ (by omega)]
    · rintro ⟨hmod, rfl⟩
      exact_mod_cast (Nat.div_mul_cancel (Nat.dvd_of_mod_eq_zero hmod)).symm
  cases negative with
  | false => exact hquot n
  | true =>
    have hneg : -(m : ℤ) = n * d ↔ (m : ℤ) = -n * d := by rw [neg_mul, neg_eq_iff_eq_neg]
    simpa [withSign, neg_eq_iff_eq_neg] using hneg.trans (hquot (-n))

/-- The raw value of a decimal number is the integer `n` exactly where its numerator is a multiple of its denominator and `n`
is the quotient with the number's sign. -/
theorem decimal_raw_eq_iff {negative : Bool} {whole frac : List (Fin 10)} {d : ℚ}
    (hd : d = (if negative then -1 else 1) * (Nat.ofDigits 10 ((whole ++ frac).map Fin.val).reverse : ℚ) / 10 ^ frac.length)
    (n : ℤ) :
    d * 2 ^ 16 = n ↔ decNumerator whole frac % 10 ^ frac.length = 0 ∧
      n = withSign negative (decNumerator whole frac / 10 ^ frac.length) := by
  rw [← withSign_eq_mul_iff negative _ (by positivity) n, decNumerator, digitsValue_eq_ofDigits, hd, div_mul_eq_mul_div,
    div_eq_iff (by positivity), ← Int.cast_inj (α := ℚ), cast_withSign]
  push_cast
  rw [mul_assoc]

/-- A decimal number whose raw value is an integer in the range has that word. -/
theorem decWord_of_raw {negative : Bool} {whole frac : List (Fin 10)} (hwhole : whole ≠ [])
    (hmod : decNumerator whole frac % 10 ^ frac.length = 0)
    (hrange : InRawRange (withSign negative (decNumerator whole frac / 10 ^ frac.length))) :
    decWord negative whole frac = some (u32 (withSign negative (decNumerator whole frac / 10 ^ frac.length))) :=
  if_pos ⟨hwhole, hmod, (inRawRange_withSign_iff _ _).1 hrange⟩

/-- A decimal number whose raw value is no integer or is out of range has no word. -/
theorem decWord_of_not_raw {negative : Bool} {whole frac : List (Fin 10)}
    (hraw : decNumerator whole frac % 10 ^ frac.length = 0 →
      ¬InRawRange (withSign negative (decNumerator whole frac / 10 ^ frac.length))) :
    decWord negative whole frac = none :=
  if_neg fun ⟨_, hmod, hle⟩ => hraw hmod ((inRawRange_withSign_iff _ _).2 hle)

/-! ### The requests of lines -/

theorem lineRequest_req {c a b : List (Fin 16)} (k : Nat) (hc : 1 ≤ c.length) (hc' : c.length ≤ 2) (ha : 1 ≤ a.length)
    (ha' : a.length ≤ 8) (hb : 1 ≤ b.length) (hb' : b.length ≤ 8) :
    lineRequest k (.req c a b) = some
      ⟨BitVec.ofNat 8 (Nat.ofDigits 16 (c.map Fin.val).reverse),
        .word (BitVec.ofNat 32 (Nat.ofDigits 16 (a.map Fin.val).reverse)),
        .word (BitVec.ofNat 32 (Nat.ofDigits 16 (b.map Fin.val).reverse))⟩ := by
  simp only [lineRequest, rawWord_eq hc hc', rawWord_eq ha ha', rawWord_eq hb hb',
    BitVec.setWidth_ofNat_of_le (show 8 ≤ 32 by decide)]

/-- The command word of `FMT` as the assembler builds it is the encoder's (rule R61). -/
theorem fmt_word_eq_encode {p : Nat} (hp : p < 8) : 0x06#8 ||| BitVec.ofNat 8 p <<< 3 = encode (.fmt p) := by
  revert p
  decide

/-- A request of two operands that the listing can drive. -/
theorem request2_eq {k : Nat} {a b : Arg} {x y : HostOperand} (cmd : Byte) (ha : argOperand k a = some x)
    (hb : argOperand k b = some y) : request2 k cmd a b = some ⟨cmd, x, y⟩ := by
  simp [request2, ha, hb]

/-- A request of one operand that the listing can drive. -/
theorem request1_eq {k : Nat} {a : Arg} {x : HostOperand} (cmd : Byte) (ha : argOperand k a = some x) :
    request1 k cmd a = some ⟨cmd, x, .word 0⟩ := by
  simp [request1, ha]

theorem lineRequest_fmt {k p : Nat} {a : Arg} {x : HostOperand} (ha : argOperand k a = some x) (hp : p < 8) :
    lineRequest k (.fmt a p) = some ⟨encode (.fmt p), x, .word 0⟩ := by
  rw [lineRequest, if_pos hp, fmt_word_eq_encode hp, request1_eq _ ha]

/-- Settles O57: a decimal has a word exactly where its numerator divides and its signed quotient is in range; a literal is
its digits; and a form is a request of its operands. -/
theorem assemblerFormsEncode : Obligations.AssemblerFormsEncode := by
  unfold Obligations.AssemblerFormsEncode
  refine ⟨fun k ds h1 h8 => ?_, fun k negative whole frac d hwhole hd => ⟨fun n hn hmin hmax => ?_, fun hno => ?_⟩,
    fun k j h1 hj => if_pos ⟨h1, hj⟩, fun k c a b => lineRequest_req k, fun k p a b x y ha hb hp => ?_⟩
  · rw [argOperand, if_pos ⟨h1, h8⟩, hexWord_eq]
  · obtain ⟨hmod, rfl⟩ := (decimal_raw_eq_iff hd n).1 hn
    rw [argOperand, decWord_of_raw hwhole hmod ⟨hmin, hmax⟩, Option.map_some]
  · have hraw (hmod : decNumerator whole frac % 10 ^ frac.length = 0) :
        ¬InRawRange (withSign negative (decNumerator whole frac / 10 ^ frac.length)) :=
      fun hrange => hno ⟨_, (decimal_raw_eq_iff hd _).2 ⟨hmod, rfl⟩, hrange⟩
    rw [argOperand, decWord_of_not_raw hraw, Option.map_none]
  · exact ⟨request2_eq _ ha hb, request2_eq _ ha hb, request2_eq _ ha hb, request2_eq _ ha hb, request1_eq _ ha,
      request1_eq _ ha, lineRequest_fmt ha hp⟩

/-! ### The pseudo-instructions -/

theorem argOperand_argZero (k : Nat) : argOperand k argZero = some (.word 0x00000000#32) := rfl

theorem argOperand_argOne (k : Nat) : argOperand k argOne = some (.word 0x00010000#32) := rfl

/-- Adding zero does not overflow, so that it leaves the operand as it is. -/
theorem addsWord_zero (a : Word) : addsWord a 0x00000000#32 = a := by
  have hwrap : wrapAdd a 0x00000000#32 = a := by rw [wrapAdd_eq, BitVec.add_zero]
  have hover : addOverflows a 0x00000000#32 = false := by simp [addOverflows, hwrap]
  rw [addsWord, hover, hwrap]
  rfl

/-- Settles O58: each expansion is the request of its form, and the notes are answers of `Execute`. -/
theorem pseudoInstructionsExpand : Obligations.PseudoInstructionsExpand := by
  unfold Obligations.PseudoInstructionsExpand
  refine ⟨fun k a x ha => ?_, by decide, addsWord_zero, by decide⟩
  exact ⟨request2_eq _ (argOperand_argZero k) ha, request2_eq _ ha (argOperand_argZero k), request2_eq _ ha ha,
    request2_eq _ (argOperand_argOne k) ha, rfl⟩

end Sys2Proof.Machine
end

section
/-! PROOFS. `ADDS` and `SUBS` by their sign tests and as clamps of the true sum and difference (rules R100 to R103), and the
standalone modules against their commands (rules R104, R126, R147, R155, R181). -/

namespace Sys2Proof.Machine

/-- A command whose response is a word's answers that word (rules R22, R67). -/
theorem answersWord_of_commandResponse {i : Instr} {s : State} {y : Word}
    (hi : commandResponse i s.curA s.curB = Response.ofWord y) : ∃ t, exec i s = .next t ∧ AnswersWord t y :=
  ⟨_, exec_eq_complete i s, hi ▸ answersWord_complete y s⟩

/-! ### The overflow tests read the true sum and difference -/

/-- A sum's overflow test holds exactly where the true sum leaves the 32-bit range (rule R101). -/
theorem addOverflows_iff (a b : Word) :
    addOverflows a b = true ↔ 2 ^ 31 ≤ s32 a + s32 b ∨ s32 a + s32 b < -2 ^ 31 := by
  have hsign : addOverflows a b = a.saddOverflow b := by
    rw [BitVec.saddOverflow_eq, addOverflows, wrapAdd_eq]
    rfl
  simp [hsign, BitVec.saddOverflow]

/-- A difference's overflow test holds exactly where the true difference leaves the 32-bit range (rule R103). -/
theorem subOverflows_iff (a b : Word) :
    subOverflows a b = true ↔ 2 ^ 31 ≤ s32 a - s32 b ∨ s32 a - s32 b < -2 ^ 31 := by
  have hsign : subOverflows a b = a.ssubOverflow b := by
    rw [BitVec.ssubOverflow_eq, subOverflows, wrapSub_eq]
    unfold signBit
    cases a.msb <;> cases b.msb <;> simp
  simp [hsign, BitVec.ssubOverflow]

/-! ### Clamping -/

/-- The integers that words stand for (rule R9). -/
theorem s32_bounds (w : Word) : -2 ^ 31 ≤ s32 w ∧ s32 w ≤ 2 ^ 31 - 1 :=
  ⟨BitVec.le_toInt w, Int.le_sub_one_of_lt BitVec.toInt_lt⟩

/-- `clamp(n, -2^31, 2^31 - 1)` of rules R101 and R103. -/
def clamp32 (n : Int) : Int := max (-2 ^ 31) (min n (2 ^ 31 - 1))

/-- A clamped integer is the value of its word. -/
theorem s32_u32_clamp32 (n : Int) : s32 (u32 (clamp32 n)) = clamp32 n :=
  BitVec.toInt_ofInt_eq_self (by decide) (le_max_left _ _) (by unfold clamp32; omega)

/-- A unit that wraps inside the 32-bit range and takes the extreme on `a`'s side outside it computes the clamp, where outside
the range `a` has the sign of the true result. -/
theorem saturating_eq_clamp32 {a : Word} {n : Int} {test : Bool} (htest : test = true ↔ 2 ^ 31 ≤ n ∨ n < -2 ^ 31)
    (hhigh : 2 ^ 31 ≤ n → 0 ≤ s32 a) (hlow : n < -2 ^ 31 → s32 a < 0) :
    (if test then saturated a else u32 n) = u32 (clamp32 n) := by
  have hsign : signBit a = decide (s32 a < 0) := BitVec.msb_eq_toInt
  split
  next hout =>
    obtain hn | hn := htest.1 hout
    · have hclamp : clamp32 n = 2 ^ 31 - 1 := by unfold clamp32; omega
      rw [hclamp, saturated, hsign, decide_eq_false (hhigh hn).not_gt]
      rfl
    · have hclamp : clamp32 n = -2 ^ 31 := by unfold clamp32; omega
      rw [hclamp, saturated, hsign, decide_eq_true (hlow hn)]
      rfl
  next hin =>
    have hclamp : clamp32 n = n := by
      rw [htest] at hin
      unfold clamp32
      omega
    rw [hclamp]

/-- The adder is the clamp of the true sum: a sum above the range has operands that are not negative, and one below it has
negative ones. -/
theorem addsWord_eq_clamp32 (a b : Word) : addsWord a b = u32 (clamp32 (s32 a + s32 b)) := by
  have hb := s32_bounds b
  exact saturating_eq_clamp32 (addOverflows_iff a b) (by omega) (by omega)

/-- The subtractor is the clamp of the true difference. -/
theorem subsWord_eq_clamp32 (a b : Word) : subsWord a b = u32 (clamp32 (s32 a - s32 b)) := by
  have hb := s32_bounds b
  exact saturating_eq_clamp32 (subOverflows_iff a b) (by omega) (by omega)

/-- Settles O33: the overflow test flags exactly the sums outside the 32-bit range, and `A` has then the sum's sign. -/
theorem addsClampsTrueSum : Obligations.AddsClampsTrueSum := by
  unfold Obligations.AddsClampsTrueSum
  intro p s
  exact answersWord_of_commandResponse (congrArg Response.ofWord (addsWord_eq_clamp32 s.curA s.curB))

/-- Settles O35: the overflow test flags exactly the differences outside the 32-bit range, and `A` has then the difference's
sign. -/
theorem subsClampsTrueDifference : Obligations.SubsClampsTrueDifference := by
  unfold Obligations.SubsClampsTrueDifference
  intro p s
  exact answersWord_of_commandResponse (congrArg Response.ofWord (subsWord_eq_clamp32 s.curA s.curB))

/-- At `INT32_MIN`, which is its own wrapped negation, the subtractor and the adder clamp integers `2^32` apart, to different
words. -/
theorem subsWord_int32Min_ne (a : Word) : subsWord a int32Min ≠ addsWord a (-int32Min) := by
  have ha := s32_bounds a
  have hself : -int32Min = int32Min := by decide
  have hval : s32 int32Min = -2 ^ 31 := by decide
  intro heq
  rw [hself, subsWord_eq_clamp32, addsWord_eq_clamp32, hval] at heq
  have hclamp := congrArg s32 heq
  rw [s32_u32_clamp32, s32_u32_clamp32] at hclamp
  unfold clamp32 at hclamp
  omega

/-- Settles O36: a word other than `INT32_MIN` has the negated value after the wrapped negation, so both units clamp the same
integer; at `INT32_MIN` they never agree. -/
theorem subsIsAddOfNegationExceptAtMin : Obligations.SubsIsAddOfNegationExceptAtMin := by
  unfold Obligations.SubsIsAddOfNegationExceptAtMin
  intro a b
  constructor
  · rintro heq rfl
    exact subsWord_int32Min_ne a heq
  · intro hb
    have hneg : s32 (-b) = -s32 b := BitVec.toInt_neg_of_ne_intMin hb
    rw [subsWord_eq_clamp32, addsWord_eq_clamp32, hneg, sub_eq_add_neg]

/-! ### Standalone modules -/

/-- The divider drives the response of `DIV`'s unit, and `div_by_zero` exactly for a zero divisor (rule R126). -/
theorem moduleDivider_spec (a b : Word) :
    (Response.ofUnit (divWord a b)).result = (moduleDivider a b).1 ∧ (moduleDivider a b).2 = decide (b = 0) ∧
      (b = 0 ↔ (Response.ofUnit (divWord a b)).err = 5) := by
  by_cases hb : b = 0#32
  · simp [moduleDivider, divWord, hb, ErrKind.code]
  · simp [moduleDivider, divWord_of_ne_zero a hb, hb]

/-- The float converter drives `y` and `err` of the response of `F2Q`'s unit (rule R147). -/
theorem moduleF2q_eq (f : Word) :
    moduleF2q f = ((Response.ofUnit (f2qWord Config.denormClampExp f)).result,
      (Response.ofUnit (f2qWord Config.denormClampExp f)).err) := by
  unfold moduleF2q
  cases f2qWord Config.denormClampExp f <;> rfl

/-- Settles O56: each module is its command's unit, so each port it drives is a register of the command's response. -/
theorem modulesMatchCommands : Obligations.ModulesMatchCommands := by
  unfold Obligations.ModulesMatchCommands
  intro p s
  refine ⟨answersWord_of_commandResponse rfl, answersWord_of_commandResponse rfl, answersWord_of_commandResponse rfl,
    ⟨_, exec_eq_complete _ s, moduleDivider_spec s.curA s.curB⟩, ⟨_, exec_eq_complete _ s, ?_⟩,
    answersWord_of_commandResponse rfl, ⟨_, exec_eq_complete _ s, rfl, rfl⟩⟩
  rw [moduleF2q_eq]
  exact ⟨rfl, rfl⟩

/-! ### The sign tests -/

/-- The extreme on `a`'s side, by `a`'s sign as the rules write it (rules R100, R102). -/
theorem saturated_eq (a : Word) : saturated a = if a.msb = false then 0x7FFFFFFF#32 else 0x80000000#32 := by
  cases h : a.msb <;> simp [saturated, signBit, h]

/-- A sum's overflow test over the sign bits (rule R100). -/
theorem addOverflows_iff_signs (a b : Word) :
    addOverflows a b = true ↔ a.msb = b.msb ∧ (a + b).msb ≠ a.msb := by
  simp [addOverflows, signBit, wrapAdd_eq]

/-- A difference's overflow test over the sign bits (rule R102). -/
theorem subOverflows_iff_signs (a b : Word) :
    subOverflows a b = true ↔ a.msb ≠ b.msb ∧ (a - b).msb ≠ a.msb := by
  simp [subOverflows, signBit, wrapSub_eq]

/-- Settles O32: operands of different signs never overflow; for those of one sign the wrapped sum's sign decides. -/
theorem addsBySignTest : Obligations.AddsBySignTest := by
  unfold Obligations.AddsBySignTest
  intro p s
  refine answersWord_of_commandResponse (congrArg Response.ofWord ?_)
  simp only [addsWord, addOverflows_iff_signs, saturated_eq, wrapAdd_eq]
  by_cases hsigns : s.curA.msb = s.curB.msb
  · simp only [hsigns, ne_eq, not_true, if_false, true_and]
  · simp only [hsigns, ne_eq, not_false_iff, if_true, false_and, if_false]

/-- Settles O34: operands of one sign never overflow; for those of different signs the wrapped difference's sign decides. -/
theorem subsBySignTest : Obligations.SubsBySignTest := by
  unfold Obligations.SubsBySignTest
  intro p s
  refine answersWord_of_commandResponse (congrArg Response.ofWord ?_)
  simp only [subsWord, subOverflows_iff_signs, saturated_eq, wrapSub_eq]
  by_cases hsigns : s.curA.msb = s.curB.msb
  · simp only [hsigns, ne_eq, not_true, false_and, if_false, if_true]
  · simp only [hsigns, ne_eq, not_false_iff, true_and, if_false]

end Sys2Proof.Machine
end

section
/-! PROOFS. `MUL` and `DIV`: the floor and the truncation of the exact result, their distance from it, the identities and the
zero divisor (rules R9, R120 to R125, R127). -/

namespace Sys2Proof.Machine

/-- An integer in the 32-bit range is the value of its word (rule R9). -/
theorem s32_u32_of_range {n : Int} (hlow : -2 ^ 31 ≤ n) (hhigh : n ≤ 2 ^ 31 - 1) : s32 (u32 n) = n :=
  BitVec.toInt_ofInt_eq_self (by decide) hlow (Int.lt_of_le_sub_one hhigh)

theorem s32_ne_zero {w : Word} (hw : w ≠ 0) : s32 w ≠ 0 :=
  fun hval => hw (BitVec.eq_of_toInt_eq (hval.trans BitVec.toInt_zero.symm))

/-! ### `MUL` is the floor of the exact product -/

/-- `n >> k` of rule R9 is the floor of the rational quotient. -/
theorem shiftRightInt_eq_floor (n : Int) (k : Nat) : shiftRightInt n k = ⌊(n : ℚ) / 2 ^ k⌋ := by
  have hfloor := Rat.floor_intCast_div_natCast n (2 ^ k)
  push_cast at hfloor
  rw [hfloor, shiftRightInt, Int.fdiv_eq_ediv_of_nonneg _ (by positivity)]

/-- The unit of `MUL` answers the low 32 bits of the floor of the exact product (rules R120 to R122). -/
theorem mulWord_eq_u32_floor (a b : Word) : mulWord a b = u32 ⌊(s32 a * s32 b : ℚ) / 2 ^ 16⌋ := by
  rw [mulWord, shiftRightInt_eq_floor, Int.cast_mul]

/-- Settles O37: the arithmetic shift of the product is the floor. -/
theorem mulKeepsLowBitsOfFloor : Obligations.MulKeepsLowBitsOfFloor := by
  unfold Obligations.MulKeepsLowBitsOfFloor
  intro p s
  exact answersWord_of_commandResponse (congrArg Response.ofWord (mulWord_eq_u32_floor s.curA s.curB))

/-- Where the exact product lies in the range, its floor does too, so `MUL` wraps nothing away (rule R122). -/
theorem s32_mulWord_of_range {a b : Word} (hlow : -2 ^ 31 ≤ (s32 a * s32 b : ℚ) / 2 ^ 16)
    (hhigh : (s32 a * s32 b : ℚ) / 2 ^ 16 ≤ 2 ^ 31 - 1) : s32 (mulWord a b) = ⌊(s32 a * s32 b : ℚ) / 2 ^ 16⌋ := by
  have hfloor := (Int.floor_le _).trans hhigh
  rw [mulWord_eq_u32_floor]
  exact s32_u32_of_range (Int.le_floor.2 (by exact_mod_cast hlow)) (by exact_mod_cast hfloor)

/-! ### `tdiv` against the exact quotient -/

/-- Truncation never enlarges the magnitude (rule R9). -/
theorem abs_truncDiv_le (n d : Int) : |(truncDiv n d : ℚ)| ≤ |(n : ℚ) / d| := by
  have hmag : (truncDiv n d).natAbs = n.natAbs / d.natAbs := Int.natAbs_tdiv n d
  simp only [abs_div, ← Int.cast_abs, ← Nat.cast_natAbs, hmag]
  exact Nat.cast_div_le

/-- A truncated quotient that is not zero has the sign of the exact one (rule R9). -/
theorem truncDiv_mul_quotient_nonneg (n d : Int) : 0 ≤ (truncDiv n d : ℚ) * ((n : ℚ) / d) := by
  have hint : 0 ≤ truncDiv n d * n * d := by
    calc (0 : Int) ≤ (n.natAbs / d.natAbs : Nat) * n.natAbs * d.natAbs := by positivity
      _ = (n.natAbs / d.natAbs : Nat) * (n.sign * n) * (d.sign * d) := by rw [Int.sign_mul_self, Int.sign_mul_self]
      _ = truncDiv n d * n * d := by rw [truncDiv_eq_sign_mul]; ring
  rw [← mul_div_assoc, div_nonneg_iff, ← mul_nonneg_iff]
  exact_mod_cast hint

/-- Truncation drops less than one: what it drops is the remainder over the divisor (rule R9). -/
theorem abs_quotient_sub_truncDiv_lt_one (n : Int) {d : Int} (hd : d ≠ 0) : |(n : ℚ) / d - truncDiv n d| < 1 := by
  have hd' : (d : ℚ) ≠ 0 := Int.cast_ne_zero.2 hd
  have hdrop : (n : ℚ) / d - truncDiv n d = (n.tmod d : Int) / d := by
    have hsplit : (d * n.tdiv d + n.tmod d : ℚ) = n := by exact_mod_cast Int.mul_tdiv_add_tmod n d
    rw [← hsplit, truncDiv]
    field_simp
    ring
  have hrem : |n.tmod d| < |d| := by
    rw [Int.abs_eq_natAbs, Int.abs_eq_natAbs, Int.natAbs_tmod]
    exact_mod_cast Nat.mod_lt _ (Int.natAbs_pos.2 hd)
  rw [hdrop, abs_div, div_lt_one (abs_pos.2 hd')]
  exact_mod_cast hrem

/-- A truncated quotient lies in the range where the exact one does: it is of no larger magnitude, and less than one above. -/
theorem s32_u32_truncDiv_of_range {n d : Int} (hd : d ≠ 0) (hlow : -2 ^ 31 ≤ (n : ℚ) / d) (hhigh : (n : ℚ) / d ≤ 2 ^ 31 - 1) :
    s32 (u32 (truncDiv n d)) = truncDiv n d := by
  have hmag : |(n : ℚ) / d| ≤ 2 ^ 31 := abs_le.2 ⟨hlow, by linarith⟩
  have hge : (-2 ^ 31 : ℚ) ≤ truncDiv n d := (abs_le.1 ((abs_truncDiv_le n d).trans hmag)).1
  have hlt : (truncDiv n d : ℚ) < 2 ^ 31 := by
    have hdrop := (abs_lt.1 (abs_quotient_sub_truncDiv_lt_one n hd)).1
    linarith
  exact s32_u32_of_range (by exact_mod_cast hge) (Int.le_sub_one_of_lt (by exact_mod_cast hlt))

/-! ### Within one raw unit -/

/-- In the range, `MUL` is the floor of the exact product (rule R127). -/
theorem mulWord_within_one_unit {a b : Word} (hlow : -2 ^ 31 ≤ (s32 a * s32 b : ℚ) / 2 ^ 16)
    (hhigh : (s32 a * s32 b : ℚ) / 2 ^ 16 ≤ 2 ^ 31 - 1) :
    (s32 a * s32 b : ℚ) / 2 ^ 16 - 1 < s32 (mulWord a b) ∧ (s32 (mulWord a b) : ℚ) ≤ (s32 a * s32 b : ℚ) / 2 ^ 16 := by
  rw [s32_mulWord_of_range hlow hhigh]
  exact ⟨Int.sub_one_lt_floor _, Int.floor_le _⟩

/-- In the range, a truncated quotient survives the narrowing, with the distance and the sign of a truncation (rule R127). -/
theorem truncDiv_within_one_unit {n d : Int} (hd : d ≠ 0) (hlow : -2 ^ 31 ≤ (n : ℚ) / d) (hhigh : (n : ℚ) / d ≤ 2 ^ 31 - 1) :
    |(n : ℚ) / d - s32 (u32 (truncDiv n d))| < 1 ∧ |(s32 (u32 (truncDiv n d)) : ℚ)| ≤ |(n : ℚ) / d| ∧
      0 ≤ (s32 (u32 (truncDiv n d)) : ℚ) * ((n : ℚ) / d) := by
  rw [s32_u32_truncDiv_of_range hd hlow hhigh]
  exact ⟨abs_quotient_sub_truncDiv_lt_one n hd, abs_truncDiv_le n d, truncDiv_mul_quotient_nonneg n d⟩

/-- Settles O40: in the range nothing wraps, so `MUL` is the floor of the exact product and `DIV` the truncation of the exact
quotient. -/
theorem productAndQuotientWithinOneUnit : Obligations.ProductAndQuotientWithinOneUnit := by
  unfold Obligations.ProductAndQuotientWithinOneUnit
  constructor
  · rintro a b _ rfl hlow hhigh
    exact mulWord_within_one_unit hlow hhigh
  · rintro a b y _ hb hy rfl hlow hhigh
    obtain rfl := Except.ok.inj ((divWord_of_ne_zero a hb).symm.trans hy)
    have hcast : (s32 a * 2 ^ 16 : ℚ) = (s32 a * 2 ^ Config.fractionalBits : Int) := by push_cast; rfl
    rw [hcast] at hlow hhigh ⊢
    exact truncDiv_within_one_unit (s32_ne_zero hb) hlow hhigh

/-! ### Identities and the zero divisor -/

/-- `ONE` stands for `2^16` raw units (rule R28). -/
theorem s32_one : s32 0x00010000#32 = 2 ^ Config.fractionalBits := by decide

theorem mulWord_one (a : Word) : mulWord a 0x00010000#32 = a := by
  rw [mulWord, s32_one, shiftRightInt, Int.mul_fdiv_cancel _ (by decide)]
  exact BitVec.ofInt_toInt

theorem mulWord_zero (a : Word) : mulWord a 0 = 0 := by
  simp [mulWord, shiftRightInt]

theorem mulWord_comm (a b : Word) : mulWord a b = mulWord b a := by
  rw [mulWord, mulWord, mul_comm]

theorem divWord_one (a : Word) : divWord a 0x00010000#32 = .ok a := by
  rw [divWord_of_ne_zero a (by decide), s32_one, truncDiv, Int.mul_tdiv_cancel _ (by decide)]
  exact congrArg _ BitVec.ofInt_toInt

theorem divWord_self {a : Word} (ha : a ≠ 0) : divWord a a = .ok 0x00010000#32 := by
  rw [divWord_of_ne_zero a ha, truncDiv, Int.mul_tdiv_cancel_left _ (s32_ne_zero ha)]
  rfl

/-- Settles O41: the scaling by `2^16` and the division undo each other. -/
theorem mulDivIdentities : Obligations.MulDivIdentities := by
  unfold Obligations.MulDivIdentities
  exact fun a b => ⟨mulWord_one a, mulWord_zero a, mulWord_comm a b, divWord_one a, divWord_self⟩

/-- On a zero divisor the unit of `DIV` fails, whatever the dividend (rule R125). -/
theorem divWord_zero (a : Word) : divWord a 0 = .error .divideByZero := if_pos rfl

/-- Settles O39: the unit's failure is the completion with its code. -/
theorem divByZeroReportsCode5 : Obligations.DivByZeroReportsCode5 := by
  unfold Obligations.DivByZeroReportsCode5
  intro p s hb
  have hresp : commandResponse (.div p) s.curA s.curB = Response.ofError .divideByZero := by
    rw [hb]
    exact congrArg Response.ofUnit (divWord_zero s.curA)
  refine ⟨_, exec_eq_complete _ s, ?_, keepsRest_complete _ s⟩
  rw [hresp]
  exact answersError_complete .divideByZero s

end Sys2Proof.Machine
end

section
/-! PROOFS. `F2Q`: its outcomes by exponent and mantissa, truncation toward zero, and the out-of-range bound (rules R140 to
R146). -/

namespace Sys2Proof.Machine

/-! ### Answers of a unit -/

/-- Different errors have different codes (rule R200). -/
theorem ErrKind.code_injective {e e' : ErrKind} (h : e.code = e'.code) : e = e' := by
  revert h
  cases e <;> cases e' <;> decide

/-- No error has the code of a success (rule R200). -/
theorem ErrKind.code_ne_errNone (e : ErrKind) : e.code ≠ errNone := by
  cases e <;> decide

/-- A unit's word is the command's answer (rule R67). -/
theorem answersWord_ofUnit {u : Except ErrKind Word} {y : Word} (hu : u = .ok y) (s : State) :
    AnswersWord (complete (Response.ofUnit u) s) y :=
  hu ▸ answersWord_complete y s

/-- A command answers an error's code exactly where its unit fails with that error (rules R67, R200). -/
theorem answersError_ofUnit_iff (u : Except ErrKind Word) (k : ErrKind) (s : State) :
    AnswersError (complete (Response.ofUnit u) s) k.code ↔ u = .error k := by
  constructor
  · rintro ⟨-, -, herr, -⟩
    cases u with
    | ok y => exact absurd herr.symm k.code_ne_errNone
    | error e => exact congrArg _ (ErrKind.code_injective herr)
  · rintro rfl
    exact answersError_complete k s

/-! ### The rows of `F2Q`'s table -/

/-- The mantissa field has 23 bits (rule R29). -/
theorem f32Mant_lt (f : Word) : f32Mant f < 2 ^ 23 := (f.extractLsb' 0 23).isLt

section Rows
variable {c : Nat} {f : Word}

theorem f2qWord_infinity (he : f32Exp f = 255) (hm : f32Mant f = 0) : f2qWord c f = .error .infinity := by
  simp [f2qWord, he, hm]

theorem f2qWord_nan (he : f32Exp f = 255) (hm : f32Mant f ≠ 0) : f2qWord c f = .error .nan := by
  simp [f2qWord, he, hm]

theorem f2qWord_zero (he : f32Exp f = 0) (hm : f32Mant f = 0) : f2qWord c f = .ok 0 := by
  have hz := (f32_unsigned_eq_zero_iff f).2 ⟨he, hm⟩
  simp [f2qWord, he, hz]

theorem f2qWord_subnormal (he : f32Exp f = 0) (hm : f32Mant f ≠ 0) : f2qWord c f = .error .denormalized := by
  have hz : ¬f.extractLsb' 0 31 = 0 := fun h => hm ((f32_unsigned_eq_zero_iff f).1 h).2
  simp only [f2qWord, he, hz, if_false, if_true, false_and, Nat.reduceEqDiff]

end Rows

section NormalRows
variable {f : Word}

/-- A normal pattern is told by its exponent alone: clamped, out of range or converted (rule R140, steps 5 to 7). -/
theorem f2qWord_normal (hpos : 1 ≤ f32Exp f) (hle : f32Exp f ≤ 254) :
    f2qWord Config.denormClampExp f = if f32Exp f < 113 then .ok 0
      else if 142 ≤ f32Exp f then .error .outOfRange
      else .ok (u32 (withSign (f32Sign f) (f2qMagnitude (f32Exp f) (f32Mant f)))) := by
  have hmin : f32Exp f ≠ 0 := Nat.one_le_iff_ne_zero.1 hpos
  have hmax : f32Exp f ≠ 255 := by omega
  have hz : f.extractLsb' 0 31 ≠ 0 := fun h => hmin ((f32_unsigned_eq_zero_iff f).1 h).1
  simp only [f2qWord, hmax, hmin, hz, false_and, if_false]
  rfl

theorem f2qWord_clamped (hpos : 1 ≤ f32Exp f) (hle : f32Exp f ≤ 112) : f2qWord Config.denormClampExp f = .ok 0 := by
  rw [f2qWord_normal hpos (by omega), if_pos (by omega)]

theorem f2qWord_converted (hge : 113 ≤ f32Exp f) (hle : f32Exp f ≤ 141) :
    f2qWord Config.denormClampExp f = .ok (u32 (withSign (f32Sign f) (f2qMagnitude (f32Exp f) (f32Mant f)))) := by
  rw [f2qWord_normal (by omega) (by omega), if_neg (by omega), if_neg (by omega)]

theorem f2qWord_outOfRange (hge : 142 ≤ f32Exp f) (hle : f32Exp f ≤ 254) :
    f2qWord Config.denormClampExp f = .error .outOfRange := by
  rw [f2qWord_normal (by omega) hle, if_neg (by omega), if_pos hge]

end NormalRows

/-- The exponents that `F2Q` reports out of range (rule R143). -/
theorem f2qWord_eq_outOfRange_iff (f : Word) :
    f2qWord Config.denormClampExp f = .error .outOfRange ↔ 142 ≤ f32Exp f ∧ f32Exp f ≤ 254 := by
  refine ⟨fun h => ?_, fun ⟨hge, hle⟩ => f2qWord_outOfRange hge hle⟩
  by_contra hout
  have hlt := f32Exp_lt f
  obtain he | he | ⟨hpos, hle⟩ | ⟨hge, hle⟩ : f32Exp f = 255 ∨ f32Exp f = 0 ∨ (1 ≤ f32Exp f ∧ f32Exp f ≤ 112) ∨
      (113 ≤ f32Exp f ∧ f32Exp f ≤ 141) := by omega
  · by_cases hm : f32Mant f = 0
    · simp [f2qWord_infinity he hm] at h
    · simp [f2qWord_nan he hm] at h
  · by_cases hm : f32Mant f = 0
    · simp [f2qWord_zero he hm] at h
    · simp [f2qWord_subnormal he hm] at h
  · simp [f2qWord_clamped hpos hle] at h
  · simp [f2qWord_converted hge hle] at h

/-! ### The converted magnitude -/

/-- A right shift, the seed included (rule R144). -/
theorem f2qMagnitude_of_le {e : Nat} (m : Nat) (he : e ≤ 134) : f2qMagnitude e m = (2 ^ 23 + m) / 2 ^ (134 - e) := by
  obtain rfl | hlt := Nat.eq_or_lt_of_le he
  · simp [f2qMagnitude]
  · have hsh : ((134 : Int) - e).toNat = 134 - e := by omega
    simp [f2qMagnitude, hlt, hsh]

/-- A left shift, the seed included (rule R144). -/
theorem f2qMagnitude_of_ge {e : Nat} (m : Nat) (he : 134 ≤ e) : f2qMagnitude e m = (2 ^ 23 + m) * 2 ^ (e - 134) := by
  have hsh : ((e : Int) - 134).toNat = e - 134 := by omega
  simp [f2qMagnitude, he.not_gt, hsh]

/-- The shifted mantissa is the floor of the magnitude times `2^16` (rules R144 to R146). -/
theorem f2qMagnitude_eq_floor (e m : Nat) :
    (f2qMagnitude e m : Int) = ⌊(2 ^ 23 + m : ℚ) * 2 ^ ((e : ℤ) - 134)⌋ := by
  obtain he | he := Nat.le_total e 134
  · have hexp : (e : ℤ) - 134 = -((134 - e : Nat) : ℤ) := by omega
    have hfloor := Rat.floor_natCast_div_natCast (2 ^ 23 + m) (2 ^ (134 - e))
    rw [f2qMagnitude_of_le m he, hexp, zpow_neg, zpow_natCast, ← div_eq_mul_inv]
    exact_mod_cast hfloor.symm
  · have hexp : (e : ℤ) - 134 = ((e - 134 : Nat) : ℤ) := by omega
    rw [f2qMagnitude_of_ge m he, hexp, zpow_natCast, eq_comm]
    exact_mod_cast Int.floor_natCast (R := ℚ) ((2 ^ 23 + m) * 2 ^ (e - 134))

/-- Up to exponent 110 the shift drops every bit of the mantissa, so the clamp loses nothing there (rule R146). -/
theorem f2qMagnitude_eq_zero {e m : Nat} (hm : m < 2 ^ 23) (he : e ≤ 110) : f2qMagnitude e m = 0 := by
  have hpow : 2 ^ 24 ≤ 2 ^ (134 - e) := Nat.pow_le_pow_right (by decide) (by omega)
  rw [f2qMagnitude_of_le m (by omega), Nat.div_eq_of_lt (by omega)]

/-- A converted magnitude is at least 4 raw units and below `2^31` (rules R142, R143). -/
theorem f2qMagnitude_bounds {e m : Nat} (hm : m < 2 ^ 23) (hge : 113 ≤ e) (hle : e ≤ 141) :
    4 ≤ f2qMagnitude e m ∧ f2qMagnitude e m < 2 ^ 31 := by
  obtain he | he := Nat.le_total e 134
  · have hpow : 2 ^ (134 - e) ≤ 2 ^ 21 := Nat.pow_le_pow_right (by decide) (by omega)
    rw [f2qMagnitude_of_le m he]
    exact ⟨(Nat.le_div_iff_mul_le (by positivity)).2 (by omega), (Nat.div_le_self _ _).trans_lt (by omega)⟩
  · have hpow : 2 ^ (e - 134) ≤ 2 ^ 7 := Nat.pow_le_pow_right (by decide) (by omega)
    have hone : 1 ≤ 2 ^ (e - 134) := Nat.one_le_two_pow
    rw [f2qMagnitude_of_ge m he]
    constructor <;> nlinarith

/-- A number of magnitude below `2^31` that is not zero has a word that is not zero. -/
theorem u32_withSign_ne_zero (negative : Bool) {n : Nat} (hpos : 0 < n) (hlt : n < 2 ^ 31) :
    u32 (withSign negative n) ≠ 0 := by
  obtain ⟨hlow, hhigh⟩ : InRawRange (withSign negative n) := by
    rw [inRawRange_withSign_iff]
    split <;> omega
  intro h
  have hval := s32_u32_of_range hlow hhigh
  rw [h] at hval
  have hzero : withSign negative n = 0 := hval.symm
  cases negative <;> simp [withSign] at hzero <;> omega

/-- Settles O43: each row of the table is the unit's answer there, and a converted magnitude lies in `[4, 2^31)`. -/
theorem f2qOutcomeTable : Obligations.F2qOutcomeTable := by
  unfold Obligations.F2qOutcomeTable
  intro p s
  refine ⟨_, exec_eq_complete (.f2q p) s, ?_⟩
  have herror {k : ErrKind} (h : f2qWord Config.denormClampExp s.curA = .error k) :=
    (answersError_ofUnit_iff _ k s).2 h
  have hmant := f32Mant_lt s.curA
  refine ⟨fun he hm => herror (f2qWord_infinity he hm), fun he hm => herror (f2qWord_nan he hm),
    fun he hm => answersWord_ofUnit (f2qWord_zero he hm) s, fun he hm => herror (f2qWord_subnormal he hm),
    fun hpos hle => answersWord_ofUnit (f2qWord_clamped hpos hle) s, fun hge hle => ?_,
    fun hge hle => herror (f2qWord_outOfRange hge hle)⟩
  obtain ⟨hmin, hmax⟩ := f2qMagnitude_bounds hmant hge hle
  exact ⟨_, u32_withSign_ne_zero _ (by omega) hmax, answersWord_ofUnit (f2qWord_converted hge hle) s⟩

/-! ### Truncation toward zero -/

/-- Away from exponents 111 and 112, where the clamp loses bits, `F2Q` is the shifted mantissa with its sign (rule R146). -/
theorem f2qWord_eq_withSign {f : Word} (he : (113 ≤ f32Exp f ∧ f32Exp f ≤ 141) ∨ (1 ≤ f32Exp f ∧ f32Exp f ≤ 110)) :
    f2qWord Config.denormClampExp f = .ok (u32 (withSign (f32Sign f) (f2qMagnitude (f32Exp f) (f32Mant f)))) := by
  obtain ⟨hge, hle⟩ | ⟨hpos, hle⟩ := he
  · exact f2qWord_converted hge hle
  · have hzero (negative : Bool) : withSign negative 0 = 0 := by cases negative <;> rfl
    rw [f2qWord_clamped hpos (by omega), f2qMagnitude_eq_zero (f32Mant_lt f) hle, hzero]
    rfl

/-- The shifted mantissa with its sign is the signed value times `2^16` rounded toward zero (rule R146). -/
theorem withSign_f2qMagnitude (negative : Bool) (e m : Nat) :
    let x : ℚ := (if negative then -1 else 1) * (2 ^ 23 + m) * (2 : ℚ) ^ ((e : ℤ) - 150)
    withSign negative (f2qMagnitude e m) = if negative then ⌈x * 2 ^ 16⌉ else ⌊x * 2 ^ 16⌋ := by
  have hscale : (2 : ℚ) ^ ((e : ℤ) - 150) * 2 ^ 16 = 2 ^ ((e : ℤ) - 134) := by
    rw [← zpow_natCast, ← zpow_add₀ (by norm_num)]
    congr 1
    omega
  have hmag : (2 ^ 23 + m : ℚ) * 2 ^ ((e : ℤ) - 150) * 2 ^ 16 = (2 ^ 23 + m) * 2 ^ ((e : ℤ) - 134) := by
    rw [mul_assoc, hscale]
  cases negative with
  | false => simp only [withSign, Bool.false_eq_true, if_false, one_mul, hmag, f2qMagnitude_eq_floor]
  | true => simp only [withSign, if_true, neg_mul, one_mul, hmag, Int.ceil_neg, f2qMagnitude_eq_floor]

/-- Settles O44: the shift is a floor of the magnitude, and the sign is put on after it. -/
theorem f2qTruncatesTowardZero : Obligations.F2qTruncatesTowardZero := by
  unfold Obligations.F2qTruncatesTowardZero
  intro p s e m x he
  refine ⟨_, exec_eq_complete (.f2q p) s, answersWord_ofUnit ?_ s⟩
  rw [f2qWord_eq_withSign he, withSign_f2qMagnitude]
  rfl

/-! ### Out of range -/

/-- A normal magnitude is 32768 or more exactly from exponent 142 on (rule R143). -/
theorem magnitude_ge_32768_iff {e m : Nat} (hm : m < 2 ^ 23) :
    32768 ≤ (2 ^ 23 + m : ℚ) * (2 : ℚ) ^ ((e : ℤ) - 150) ↔ 142 ≤ e := by
  have hm' : (2 ^ 23 + m : ℚ) < 2 ^ 24 := by exact_mod_cast (by omega : 2 ^ 23 + m < 2 ^ 24)
  have hone : (2 ^ 23 : ℚ) ≤ 2 ^ 23 + m := le_add_of_nonneg_right m.cast_nonneg
  constructor
  · contrapose!
    intro hlt
    have hexp : (e : ℤ) - 150 ≤ -9 := by omega
    calc (2 ^ 23 + m : ℚ) * 2 ^ ((e : ℤ) - 150)
        ≤ (2 ^ 23 + m) * 2 ^ (-9 : ℤ) := by gcongr; norm_num
      _ < 2 ^ 24 * 2 ^ (-9 : ℤ) := by gcongr
      _ = 32768 := by norm_num
  · intro hge
    have hexp : -8 ≤ (e : ℤ) - 150 := by omega
    calc (32768 : ℚ) = 2 ^ 23 * 2 ^ (-8 : ℤ) := by norm_num
      _ ≤ (2 ^ 23 + m) * 2 ^ ((e : ℤ) - 150) := by gcongr; norm_num

/-- Settles O45: the unit fails with OutOfRange on exactly those exponents, whose normal magnitudes are those from 32768 on. -/
theorem outOfRangeFromMagnitude32768 : Obligations.OutOfRangeFromMagnitude32768 := by
  unfold Obligations.OutOfRangeFromMagnitude32768
  intro p s e m
  have hcode := (answersError_ofUnit_iff _ .outOfRange s).trans (f2qWord_eq_outOfRange_iff s.curA)
  refine ⟨_, exec_eq_complete (.f2q p) s, hcode, fun _ hle => hcode.trans ?_⟩
  exact (and_iff_left hle).trans (magnitude_ge_32768_iff (f32Mant_lt s.curA)).symm

end Sys2Proof.Machine
end

section
/-! PROOFS. `Q2F`: the closed form of its loops, the fields and the value of its result, and the round trip through `F2Q`
(rules R150 to R154). -/

namespace Sys2Proof.Machine

/-! ### The loops of `Q2F` -/

/-- The first loop halves once for each bit above the 24th (rule R150). -/
theorem halveTo24Bits_eq (fuel : Nat) {mag : Nat} (e : Nat) (hfuel : Nat.log2 mag ≤ fuel + 23) :
    halveTo24Bits fuel mag e = (mag / 2 ^ (Nat.log2 mag - 23), e + (Nat.log2 mag - 23)) := by
  induction fuel generalizing mag e with
  | zero => simp [halveTo24Bits, Nat.sub_eq_zero_of_le (Nat.zero_add 23 ▸ hfuel)]
  | succ k ih =>
    rw [halveTo24Bits]
    split
    next hbig =>
      have hlead : Nat.log2 mag = Nat.log2 (mag / 2) + 1 := by rw [Nat.log2_def, if_pos (by omega)]
      have hge : 24 ≤ Nat.log2 mag := (Nat.le_log2 (by omega)).2 hbig
      have hsteps : Nat.log2 mag - 23 = Nat.log2 (mag / 2) - 23 + 1 := by omega
      rw [ih (e + 1) (by omega), hsteps, Nat.div_div_eq_div_mul, ← Nat.pow_succ', Nat.add_assoc e 1, Nat.add_comm 1]
    next hsmall =>
      have hlead : Nat.log2 mag - 23 = 0 := by
        obtain rfl | hmag := Nat.eq_zero_or_pos mag
        · rfl
        · have := (Nat.log2_lt (k := 24) hmag.ne').2 (by omega)
          omega
      simp [hlead]

/-- The second loop doubles once for each bit missing below the 24th (rule R150). -/
theorem doubleTo24Bits_eq (fuel : Nat) {mag : Nat} (e : Nat) (hmag : mag ≠ 0) (hfuel : 23 ≤ fuel + Nat.log2 mag) :
    doubleTo24Bits fuel mag e = (mag * 2 ^ (23 - Nat.log2 mag), e - (23 - Nat.log2 mag)) := by
  induction fuel generalizing mag e with
  | zero => simp [doubleTo24Bits, Nat.sub_eq_zero_of_le (Nat.zero_add (Nat.log2 mag) ▸ hfuel)]
  | succ k ih =>
    rw [doubleTo24Bits]
    split
    next hsmall =>
      have hlt := (Nat.log2_lt (k := 23) hmag).2 hsmall
      have hlead : Nat.log2 (mag * 2) = Nat.log2 mag + 1 := by rw [Nat.mul_comm, Nat.log2_two_mul hmag]
      have hsteps : 23 - Nat.log2 mag = 23 - Nat.log2 (mag * 2) + 1 := by omega
      rw [ih (e - 1) (by omega) (by omega), hsteps, Nat.mul_assoc, ← Nat.pow_succ', Nat.sub_sub, Nat.add_comm 1]
    next hbig =>
      have hge := (Nat.le_log2 (k := 23) hmag).2 (by omega)
      simp [Nat.sub_eq_zero_of_le hge]

/-- The magnitude shifted so that its leading bit is bit 23, the bits that fall below bit 0 dropped (rule R151). -/
def significand24 (mag : Nat) : Nat := mag * 2 ^ 23 / 2 ^ Nat.log2 mag

theorem significand24_of_ge {mag : Nat} (h : 23 ≤ Nat.log2 mag) : significand24 mag = mag / 2 ^ (Nat.log2 mag - 23) := by
  have hsplit : 2 ^ Nat.log2 mag = 2 ^ (Nat.log2 mag - 23) * 2 ^ 23 := by rw [← Nat.pow_add, Nat.sub_add_cancel h]
  rw [significand24, hsplit, Nat.mul_div_mul_right _ _ (by decide)]

theorem significand24_of_le {mag : Nat} (h : Nat.log2 mag ≤ 23) : significand24 mag = mag * 2 ^ (23 - Nat.log2 mag) := by
  have hsplit : 2 ^ 23 = 2 ^ (23 - Nat.log2 mag) * 2 ^ Nat.log2 mag := by rw [← Nat.pow_add, Nat.sub_add_cancel h]
  rw [significand24, hsplit, ← Nat.mul_assoc, Nat.mul_div_cancel _ (by positivity)]

/-- The leading bit is bit 23: the significand has 24 bits (rule R151). -/
theorem significand24_bounds {mag : Nat} (hmag : mag ≠ 0) : 2 ^ 23 ≤ significand24 mag ∧ significand24 mag < 2 ^ 24 := by
  have hlow := Nat.log2_self_le hmag
  have hhigh := Nat.lt_log2_self (n := mag)
  rw [Nat.pow_succ] at hhigh
  constructor
  · exact (Nat.le_div_iff_mul_le (by positivity)).2 (by nlinarith)
  · exact (Nat.div_lt_iff_lt_mul (by positivity)).2 (by nlinarith)

/-- Bit `j` of the significand is the magnitude's bit `j + L - 23`, zero where there is none (rule R151). -/
theorem testBit_significand24 (mag j : Nat) :
    (significand24 mag).testBit j =
      (decide (23 ≤ j + Nat.log2 mag) && mag.testBit (j + Nat.log2 mag - 23)) := by
  rw [significand24, Nat.testBit_div_two_pow, Nat.testBit_mul_two_pow]

/-- A magnitude above zero and up to `2^31` has its leading bit at 31 or below (rule R151). -/
theorem log2_le_31 {mag : Nat} (hmag : mag ≠ 0) (hle : mag ≤ 2 ^ 31) : Nat.log2 mag ≤ 31 :=
  Nat.le_of_lt_succ ((Nat.log2_lt hmag).2 (by omega))

/-- Both loops together move the leading bit to bit 23 and leave the exponent at `111 + L` (rule R151). -/
theorem normalizeTo24Bits_eq {mag : Nat} (hmag : mag ≠ 0) (hle : mag ≤ 2 ^ 31) :
    normalizeTo24Bits mag = (significand24 mag, 111 + Nat.log2 mag) := by
  have hlead := log2_le_31 hmag hle
  rw [normalizeTo24Bits, halveTo24Bits_eq 8 _ (by omega)]
  obtain h | h := Nat.le_total (Nat.log2 mag) 23
  · rw [Nat.sub_eq_zero_of_le h, Nat.pow_zero, Nat.div_one, doubleTo24Bits_eq 23 _ hmag (by omega), significand24_of_le h]
    congr 1
    simp only [Config.exponentSeed]
    omega
  · obtain ⟨hmin, -⟩ := significand24_bounds hmag
    have hlog : 23 ≤ Nat.log2 (significand24 mag) := (Nat.le_log2 (by omega)).2 hmin
    rw [← significand24_of_ge h, doubleTo24Bits_eq 23 _ (by omega) (by omega), Nat.sub_eq_zero_of_le hlog]
    simp only [Config.exponentSeed, Nat.pow_zero, Nat.mul_one, Nat.sub_zero, Prod.mk.injEq, true_and]
    omega

/-! ### The fields of a packed pattern -/

section Fields
variable (sgn : Bool) (e mag : Nat)

@[simp] theorem f32Sign_packF32 : f32Sign (packF32 sgn e mag) = sgn := by
  have h : (BitVec.ofBool sgn ++ BitVec.ofNat 8 e ++ BitVec.ofNat 23 mag).msb = sgn := by
    rw [BitVec.msb_append, if_neg (by decide), BitVec.msb_append, if_neg (by decide), BitVec.msb_ofBool]
  exact h

@[simp] theorem f32Exp_packF32 : f32Exp (packF32 sgn e mag) = e % 2 ^ 8 := by
  have h : (BitVec.ofBool sgn ++ BitVec.ofNat 8 e ++ BitVec.ofNat 23 mag).extractLsb' 23 8 = BitVec.ofNat 8 e := by
    rw [BitVec.extractLsb'_append_eq_of_le (by decide), BitVec.extractLsb'_append_eq_right]
  exact (congrArg BitVec.toNat h).trans (BitVec.toNat_ofNat _ _)

@[simp] theorem f32Mant_packF32 : f32Mant (packF32 sgn e mag) = mag % 2 ^ 23 := by
  have h : (BitVec.ofBool sgn ++ BitVec.ofNat 8 e ++ BitVec.ofNat 23 mag).extractLsb' 0 23 = BitVec.ofNat 23 mag :=
    BitVec.extractLsb'_append_eq_right
  exact (congrArg BitVec.toNat h).trans (BitVec.toNat_ofNat _ _)

end Fields

/-- Bit `j` of the mantissa field is bit `j` of the pattern (rule R29). -/
theorem testBit_f32Mant (f : Word) {j : Nat} (hj : j < 23) : (f32Mant f).testBit j = f.getLsbD j := by
  rw [f32Mant, BitVec.testBit_toNat, BitVec.getLsbD_extractLsb']
  simp [hj]

/-! ### The result of `Q2F` -/

theorem q2fWord_zero : q2fWord 0 = 0 := rfl

theorem magnitude_ne_zero {a : Word} (ha : a ≠ 0) : magnitude a ≠ 0 := Int.natAbs_ne_zero.2 (s32_ne_zero ha)

section Result
variable {a : Word} (ha : a ≠ 0)
include ha

/-- The result packs the operand's sign, `111 + L` and the significand (rules R150, R151). -/
theorem q2fWord_eq_packF32 :
    q2fWord a = packF32 (decide (s32 a < 0)) (111 + Nat.log2 (magnitude a)) (significand24 (magnitude a)) := by
  simp [q2fWord, s32_ne_zero ha, normalizeTo24Bits_eq (magnitude_ne_zero ha) (magnitude_le a)]

theorem f32Sign_q2fWord : f32Sign (q2fWord a) = decide (s32 a < 0) := by
  rw [q2fWord_eq_packF32 ha, f32Sign_packF32]

theorem f32Exp_q2fWord : f32Exp (q2fWord a) = 111 + Nat.log2 (magnitude a) := by
  have hlead := log2_le_31 (magnitude_ne_zero ha) (magnitude_le a)
  rw [q2fWord_eq_packF32 ha, f32Exp_packF32, Nat.mod_eq_of_lt (by omega)]

theorem f32Mant_q2fWord : f32Mant (q2fWord a) = significand24 (magnitude a) % 2 ^ 23 := by
  rw [q2fWord_eq_packF32 ha, f32Mant_packF32]

/-- With its implicit leading 1, the mantissa is the significand (rules R29, R151). -/
theorem implicitOne_add_f32Mant_q2fWord : 2 ^ 23 + f32Mant (q2fWord a) = significand24 (magnitude a) := by
  obtain ⟨hmin, hmax⟩ := significand24_bounds (magnitude_ne_zero ha)
  rw [f32Mant_q2fWord ha]
  omega

end Result

/-- Settles O46: the loops end at the significand and `111 + L`, and the fields of the result are those. -/
theorem q2fLeadingBitForm : Obligations.Q2fLeadingBitForm := by
  unfold Obligations.Q2fLeadingBitForm
  intro p s ha mag lead
  have hmag := magnitude_ne_zero ha
  obtain ⟨hmin, hmax⟩ := significand24_bounds hmag
  have hloops : (normalizeTo24Bits mag).1 = significand24 mag := by
    rw [normalizeTo24Bits_eq hmag (magnitude_le s.curA)]
  refine ⟨hloops ▸ hmin, hloops ▸ hmax, log2_le_31 hmag (magnitude_le s.curA), _, q2fWord s.curA,
    exec_eq_complete (.q2f p) s, answersWord_complete _ s, f32Sign_q2fWord ha, f32Exp_q2fWord ha, fun j hj => ?_⟩
  rw [← testBit_f32Mant _ hj, f32Mant_q2fWord ha, Nat.testBit_mod_two_pow, testBit_significand24]
  simp [hj, mag, lead]

/-! ### The value of `Q2F`'s result -/

/-- A significand times its unit `2^(e - 150)`, at `e = 111 + L`, over a common denominator (rules R29, R151). -/
theorem significand_value_eq (n lead : Nat) :
    (n : ℚ) * 2 ^ (((111 + lead : Nat) : ℤ) - 150) = (n * 2 ^ lead : Nat) / 2 ^ 39 := by
  have hexp : ((111 + lead : Nat) : ℤ) - 150 = (lead : ℤ) - (39 : Nat) := by omega
  rw [hexp, zpow_sub₀ (by norm_num), zpow_natCast, zpow_natCast]
  push_cast
  ring

/-- A raw magnitude's value over the same denominator (rule R27). -/
theorem raw_value_eq (mag : Nat) : (mag : ℚ) / 2 ^ 16 = (mag * 2 ^ 23 : Nat) / 2 ^ 39 := by
  push_cast
  ring

/-- Dropping bits loses less than one unit of the significand's last place, and nothing below 24 bits (rule R152). -/
theorem significand24_truncates (mag : Nat) :
    significand24 mag * 2 ^ Nat.log2 mag ≤ mag * 2 ^ 23 ∧ mag * 2 ^ 23 < (significand24 mag + 1) * 2 ^ Nat.log2 mag ∧
      (Nat.log2 mag ≤ 23 → significand24 mag * 2 ^ Nat.log2 mag = mag * 2 ^ 23) := by
  refine ⟨Nat.div_mul_le_self _ _, ?_, fun hlead => ?_⟩
  · exact (Nat.div_lt_iff_lt_mul (by positivity)).1 (Nat.lt_succ_self _)
  · exact Nat.div_mul_cancel ((Nat.pow_dvd_pow 2 hlead).mul_left mag)

/-- Settles O47: over the common denominator `2^39` the three claims are those of the significand. -/
theorem q2fTruncatesTo24Bits : Obligations.Q2fTruncatesTo24Bits := by
  unfold Obligations.Q2fTruncatesTo24Bits
  intro a ha x e m
  obtain ⟨hlow, hhigh, hexact⟩ := significand24_truncates (magnitude a)
  have hsig : (2 ^ 23 + m : ℚ) = significand24 (magnitude a) := by
    exact_mod_cast implicitOne_add_f32Mant_q2fWord ha
  have he : e = 111 + Nat.log2 (magnitude a) := f32Exp_q2fWord ha
  have hx : x = (magnitude a * 2 ^ 23 : Nat) / 2 ^ 39 := raw_value_eq _
  have hsucc : (significand24 (magnitude a) + 1 : ℚ) = (significand24 (magnitude a) + 1 : Nat) := by push_cast; rfl
  rw [hsig, hsucc, he, hx, significand_value_eq, significand_value_eq]
  refine ⟨by gcongr, by gcongr, fun hlt => ?_⟩
  have hlead := (Nat.log2_lt (k := 24) (magnitude_ne_zero ha)).2 hlt
  rw [hexact (by omega)]

/-- Settles O48: the exponent `111 + L` is a normal pattern's, which no zero has. -/
theorem q2fGivesNormalOrPlusZero : Obligations.Q2fGivesNormalOrPlusZero := by
  unfold Obligations.Q2fGivesNormalOrPlusZero
  intro p s
  refine ⟨_, q2fWord s.curA, exec_eq_complete (.q2f p) s, answersWord_complete _ s, ?_⟩
  by_cases ha : s.curA = 0
  · exact .inl ⟨ha, ha ▸ q2fWord_zero⟩
  · have hexp := f32Exp_q2fWord ha
    have hlead := log2_le_31 (magnitude_ne_zero ha) (magnitude_le s.curA)
    have hne {y : Word} (hy : f32Exp y = 0) : q2fWord s.curA ≠ y := fun h => by rw [h, hy] at hexp; omega
    refine .inr ⟨ha, hne rfl, hne rfl, by omega, by omega, ?_⟩
    simp only [F32Class.holds, decide_eq_true_eq]
    omega

/-! ### The round trip -/

/-- `F2Q` shifts the significand back to where it was: what is left of the magnitude is its leading 24 bits (rule R154). -/
theorem f2qMagnitude_significand24 {mag m : Nat} (hm : 2 ^ 23 + m = significand24 mag) :
    f2qMagnitude (111 + Nat.log2 mag) m = mag / 2 ^ (Nat.log2 mag - 23) * 2 ^ (Nat.log2 mag - 23) := by
  obtain h | h := Nat.le_total (Nat.log2 mag) 23
  · have hsh : 134 - (111 + Nat.log2 mag) = 23 - Nat.log2 mag := by omega
    rw [f2qMagnitude_of_le m (by omega), hm, significand24_of_le h, hsh, Nat.mul_div_cancel _ (by positivity),
      Nat.sub_eq_zero_of_le h, Nat.pow_zero, Nat.div_one, Nat.mul_one]
  · have hsh : 111 + Nat.log2 mag - 134 = Nat.log2 mag - 23 := by omega
    rw [f2qMagnitude_of_ge m (by omega), hm, significand24_of_ge h, hsh]

/-- The sign of an integer that is not zero, as a factor. -/
theorem withSign_eq_sign_mul {n : Int} (hn : n ≠ 0) (k : Nat) : withSign (decide (n < 0)) k = n.sign * k := by
  obtain h | h := Int.lt_or_gt_of_ne hn
  · simp [withSign, h, Int.sign_eq_neg_one_of_neg h]
  · simp [withSign, h.not_gt, Int.sign_eq_one_of_pos h]

/-- Away from the clamp and the range's end, the round trip keeps the sign and the leading 24 bits (rule R154). -/
theorem f2qWord_q2fWord {r : Word} (hge : 4 ≤ magnitude r) (hlt : magnitude r < 2 ^ 31) :
    let unit := 2 ^ (Nat.log2 (magnitude r) - 23)
    f2qWord Config.denormClampExp (q2fWord r) = .ok (u32 ((s32 r).sign * (magnitude r / unit * unit : Nat))) := by
  have hr : r ≠ 0 := by rintro rfl; exact absurd hge (by decide)
  have hexp := f32Exp_q2fWord hr
  have hlow : 2 ≤ Nat.log2 (magnitude r) := (Nat.le_log2 (magnitude_ne_zero hr)).2 hge
  have hhigh : Nat.log2 (magnitude r) < 31 := (Nat.log2_lt (magnitude_ne_zero hr)).2 hlt
  rw [f2qWord_converted (by omega) (by omega), f32Sign_q2fWord hr, hexp,
    f2qMagnitude_significand24 (implicitOne_add_f32Mant_q2fWord hr), withSign_eq_sign_mul (s32_ne_zero hr)]

/-- A magnitude of at most 24 bits loses none of them (rule R154). -/
theorem f2qWord_q2fWord_exact {r : Word} (hge : 4 ≤ magnitude r) (hlt : magnitude r < 2 ^ 24) :
    f2qWord Config.denormClampExp (q2fWord r) = .ok r := by
  have hlead := (Nat.log2_lt (k := 24) (by omega)).2 hlt
  have hunit : 2 ^ (Nat.log2 (magnitude r) - 23) = 1 := by rw [Nat.sub_eq_zero_of_le (by omega), Nat.pow_zero]
  have hword : u32 (s32 r) = r := BitVec.ofInt_toInt
  rw [f2qWord_q2fWord hge (by omega), hunit, Nat.div_one, Nat.mul_one, Int.sign_mul_natAbs, hword]

/-- A magnitude below 4 raw units has an exponent in the clamp band (rules R142, R154). -/
theorem f2qWord_q2fWord_clamped {r : Word} (hge : 1 ≤ magnitude r) (hle : magnitude r ≤ 3) :
    f2qWord Config.denormClampExp (q2fWord r) = .ok 0 := by
  have hr : r ≠ 0 := by rintro rfl; exact absurd hge (by decide)
  have hexp := f32Exp_q2fWord hr
  have hlead := (Nat.log2_lt (k := 2) (magnitude_ne_zero hr)).2 (by omega)
  exact f2qWord_clamped (by omega) (by omega)

/-- `INT32_MIN` has the leading bit 31, hence the exponent 142 (rules R143, R154). -/
theorem f2qWord_q2fWord_int32Min : f2qWord Config.denormClampExp (q2fWord int32Min) = .error .outOfRange := by
  have hmag : magnitude int32Min = 2 ^ 31 := by decide
  have hexp : f32Exp (q2fWord int32Min) = 142 := by
    rw [f32Exp_q2fWord (by decide), hmag, Nat.log2_two_pow]
  exact f2qWord_outOfRange hexp.ge (by omega)

/-- Settles O49: raw 0 goes through +0.0, and the leading bit of any other magnitude gives the exponent and so the case. -/
theorem floatRoundTrip : Obligations.FloatRoundTrip := by
  unfold Obligations.FloatRoundTrip
  intro r mag back
  refine ⟨?_, fun ⟨hge, hle⟩ => f2qWord_q2fWord_clamped hge hle,
    fun ⟨hge, hlt⟩ => f2qWord_q2fWord (Nat.le_trans (by decide) hge) hlt, ?_⟩
  · rintro (⟨hge, hlt⟩ | rfl)
    · exact f2qWord_q2fWord_exact hge hlt
    · exact f2qWord_zero rfl rfl
  · rintro rfl
    exact f2qWord_q2fWord_int32Min

end Sys2Proof.Machine
end

section
/-! PROOFS. Decimal numerals: the digit characters, what a numeral and a padded fraction spell, and their first and
last characters (rules R170, R173, R177, R179). -/

namespace Sys2Proof.Machine

/-! ### Digit characters -/

/-- The codes of `0` to `9` (rule R179). -/
def IsDigitChar (c : Byte) : Prop := 0x30 ≤ c.toNat ∧ c.toNat ≤ 0x39

theorem digitChar_toNat {d : Nat} (hd : d < 10) : (digitChar d).toNat = 0x30 + d := by
  simp only [digitChar, BitVec.toNat_ofNat]
  omega

theorem isDigitChar_digitChar {d : Nat} (hd : d < 10) : IsDigitChar (digitChar d) := by
  simp only [IsDigitChar, digitChar_toNat hd]
  omega

theorem charDigit_digitChar {d : Nat} (hd : d < 10) : charDigit (digitChar d) = some d := by
  have hread : charDigit (digitChar d) = some ((digitChar d).toNat - 0x30) := if_pos (isDigitChar_digitChar hd)
  rw [hread, digitChar_toNat hd, Nat.add_sub_cancel_left]

theorem digitChar_eq_zeroChar_iff {d : Nat} (hd : d < 10) : digitChar d = 0x30#8 ↔ d = 0 := by
  have hzero : (0x30#8).toNat = 0x30 := rfl
  rw [← BitVec.toNat_inj, digitChar_toNat hd, hzero]
  omega

theorem IsDigitChar.ne_minusChar {c : Byte} (hc : IsDigitChar c) : c ≠ minusChar := by
  rintro rfl
  exact absurd hc.1 (by decide)

theorem IsDigitChar.ne_decimalPoint {c : Byte} (hc : IsDigitChar c) : c ≠ Config.decimalPoint := by
  rintro rfl
  exact absurd hc.1 (by decide)

theorem charsValue_digitChar_cons (acc : Nat) {d : Nat} (hd : d < 10) (cs : List Byte) :
    charsValue acc (digitChar d :: cs) = charsValue (acc * 10 + d) cs := by
  rw [charsValue, charDigit_digitChar hd]

/-- The value read from digit characters is the number of the digits, after the number read before them. -/
theorem charsValue_map_digitChar (acc : Nat) {ds : List Nat} (hds : ∀ d ∈ ds, d < 10) :
    charsValue acc (ds.map digitChar) = some (acc * 10 ^ ds.length + Nat.ofDigits 10 ds.reverse) := by
  induction ds generalizing acc with
  | nil => simp [charsValue]
  | cons d ds ih =>
    obtain ⟨hd, hrest⟩ := List.forall_mem_cons.1 hds
    rw [List.map_cons, charsValue_digitChar_cons acc hd, ih _ hrest, List.reverse_cons, Nat.ofDigits_append,
      Nat.ofDigits_singleton, List.length_reverse, List.length_cons, Option.some_inj]
    ring

/-- Reading goes on, after one string, with the next. -/
theorem charsValue_append {acc n : Nat} {cs : List Byte} (hcs : charsValue acc cs = some n) (ds : List Byte) :
    charsValue acc (cs ++ ds) = charsValue n ds := by
  induction cs generalizing acc with
  | nil => cases hcs; rfl
  | cons c cs ih =>
    rw [List.cons_append, charsValue]
    rw [charsValue] at hcs
    cases hc : charDigit c with
    | none => simp [hc] at hcs
    | some d => exact ih (by simpa [hc] using hcs)

/-! ### Numerals -/

/-- The numeral of a number above zero has the number's decimal digits, first digit first (rule R177). -/
theorem decDigits_eq_reverse_digits {fuel n : Nat} (hpos : 0 < n) (hfuel : n < fuel) :
    decDigits fuel n = (Nat.digits 10 n).reverse := by
  induction fuel generalizing n with
  | zero => exact absurd hfuel (Nat.not_lt_zero n)
  | succ k ih =>
    rw [decDigits]
    split
    next hlt => rw [Nat.digits_of_lt 10 n hpos.ne' hlt, List.reverse_singleton]
    next hge =>
      rw [Nat.digits_def' (by decide) hpos, List.reverse_cons, ih (by omega) (by omega)]

theorem decDigits_lt_ten {n : Nat} : ∀ d ∈ decDigits (n + 1) n, d < 10 := by
  obtain rfl | hpos := Nat.eq_zero_or_pos n
  · decide
  · intro d hd
    rw [decDigits_eq_reverse_digits hpos n.lt_succ_self, List.mem_reverse] at hd
    exact Nat.digits_lt_base (by decide) hd

theorem ofDigits_reverse_decDigits (n : Nat) : Nat.ofDigits 10 (decDigits (n + 1) n).reverse = n := by
  obtain rfl | hpos := Nat.eq_zero_or_pos n
  · rfl
  · rw [decDigits_eq_reverse_digits hpos n.lt_succ_self, List.reverse_reverse, Nat.ofDigits_digits]

/-- Every character of a numeral is a digit (rule R179). -/
theorem isDigitChar_of_mem_decNumeral {n : Nat} {c : Byte} (hc : c ∈ decNumeral n) : IsDigitChar c := by
  obtain ⟨d, hd, rfl⟩ := List.mem_map.1 hc
  exact isDigitChar_digitChar (decDigits_lt_ten d hd)

/-- A numeral spells its number (rule R170). -/
theorem charsValue_decNumeral (acc n : Nat) :
    charsValue acc (decNumeral n) = some (acc * 10 ^ (decNumeral n).length + n) := by
  rw [decNumeral, charsValue_map_digitChar acc decDigits_lt_ten, ofDigits_reverse_decDigits, List.length_map]

/-- The last character of a numeral is the digit of the units. -/
theorem decNumeral_getLast? (n : Nat) : (decNumeral n).getLast? = some (digitChar (n % 10)) := by
  rw [decNumeral, decDigits]
  split
  next hlt => simp [Nat.mod_eq_of_lt hlt]
  next => simp

theorem decNumeral_ne_nil (n : Nat) : decNumeral n ≠ [] := by
  intro hnil
  simpa [hnil] using decNumeral_getLast? n

/-- A numeral has no leading zero: only the numeral of 0 begins with `0` (rule R177). -/
theorem decNumeral_of_head_zero {n : Nat} (hhead : (decNumeral n).head? = some 0x30#8) : decNumeral n = [0x30#8] := by
  obtain rfl | hpos := Nat.eq_zero_or_pos n
  · rfl
  · have hne : Nat.digits 10 n ≠ [] := Nat.digits_ne_nil_iff_ne_zero.2 hpos.ne'
    rw [decNumeral, decDigits_eq_reverse_digits hpos n.lt_succ_self, List.head?_map, List.head?_reverse,
      List.getLast?_eq_some_getLast hne, Option.map_some, Option.some_inj,
      digitChar_eq_zeroChar_iff (Nat.digits_lt_base (by decide) (List.getLast_mem hne))] at hhead
    exact absurd hhead (Nat.getLast_digit_ne_zero 10 hpos.ne')

/-! ### Padded fractions -/

theorem charsValue_replicate_zero (acc k : Nat) : charsValue acc (List.replicate k (digitChar 0)) = some (acc * 10 ^ k) := by
  rw [← List.map_replicate, charsValue_map_digitChar acc (by simp), List.reverse_replicate, Nat.ofDigits_replicate_zero,
    List.length_replicate, Nat.add_zero]

theorem isDigitChar_of_mem_decPadded {f p : Nat} {c : Byte} (hc : c ∈ decPadded f p) : IsDigitChar c := by
  obtain hzero | hnum := List.mem_append.1 hc
  · rw [List.eq_of_mem_replicate hzero]
    exact isDigitChar_digitChar (by decide)
  · exact isDigitChar_of_mem_decNumeral hnum

/-- A fraction that fits in its digits is spelt by them (rule R173). -/
theorem charsValue_decPadded (acc : Nat) {f p : Nat} (hp : 0 < p) (hf : f < 10 ^ p) :
    charsValue acc (decPadded f p) = some (acc * 10 ^ p + f) := by
  rw [decPadded, charsValue_append (charsValue_replicate_zero acc _), charsValue_decNumeral, Nat.mul_assoc, ← Nat.pow_add,
    Nat.sub_add_cancel (decNumeral_length_le hp hf)]

theorem decPadded_getLast? (f p : Nat) : (decPadded f p).getLast? = some (digitChar (f % 10)) := by
  rw [decPadded, List.getLast?_append, decNumeral_getLast?, Option.some_or]

end Sys2Proof.Machine
end

section
/-! PROOFS. `FMT`: the parts of its string, its place in the response registers, its sign, its digits and its length, and how
it reads back (rules R170 to R184). -/

namespace Sys2Proof.Machine

/-! ### The parts of the string -/

/-- The characters after the point, none where no fraction is printed (rules R173, R176, R178). -/
def fractionChars (a : Word) (prec : BitVec 3) : List Byte :=
  if 0 < (fmtDigits a prec).2.2 then decPadded (fmtDigits a prec).2.1 (fmtDigits a prec).2.2 else []

theorem fractionChars_length (a : Word) (prec : BitVec 3) : (fractionChars a prec).length = (fmtDigits a prec).2.2 := by
  obtain ⟨-, hfrac⟩ := fmtDigits_frac_bounds a prec
  rw [fractionChars]
  split
  next hpos => exact decPadded_length hpos hfrac
  next hzero => exact (Nat.eq_zero_of_not_pos hzero).symm

theorem fractionChars_eq_nil_iff (a : Word) (prec : BitVec 3) :
    fractionChars a prec = [] ↔ (fmtDigits a prec).2.2 = 0 := by
  rw [← List.length_eq_zero_iff, fractionChars_length]

/-- A sign, the integer part, and a point and the fraction where there is one: what a decimal string is (rule R178). -/
def decimalString (point : Byte) (negative : Bool) (whole frac : List Byte) : List Byte :=
  (if negative then [minusChar] else []) ++ whole ++ (if frac = [] then [] else point :: frac)

theorem fmtChars_eq_decimalString (point : Byte) (a : Word) (prec : BitVec 3) :
    fmtChars point a prec =
      decimalString point (decide (s32 a < 0)) (decNumeral (fmtDigits a prec).1) (fractionChars a prec) := by
  have hnil := fractionChars_eq_nil_iff a prec
  by_cases hpos : 0 < (fmtDigits a prec).2.2
  · have hfrac : fractionChars a prec = decPadded (fmtDigits a prec).2.1 (fmtDigits a prec).2.2 := if_pos hpos
    rw [decimalString, if_neg (mt hnil.1 hpos.ne'), hfrac]
    simp [fmtChars, hpos]
  · rw [decimalString, if_pos (hnil.2 (Nat.eq_zero_of_not_pos hpos))]
    simp [fmtChars, hpos]

theorem isDigitChar_of_mem_fractionChars {a : Word} {prec : BitVec 3} {c : Byte} (hc : c ∈ fractionChars a prec) :
    IsDigitChar c := by
  rw [fractionChars] at hc
  split at hc
  next => exact isDigitChar_of_mem_decPadded hc
  next => cases hc

/-- The fraction's characters spell its number (rule R173). -/
theorem charsValue_fractionChars (acc : Nat) (a : Word) (prec : BitVec 3) :
    charsValue acc (fractionChars a prec) = some (acc * 10 ^ (fmtDigits a prec).2.2 + (fmtDigits a prec).2.1) := by
  obtain ⟨-, hfrac⟩ := fmtDigits_frac_bounds a prec
  rw [fractionChars]
  split
  next hpos => exact charsValue_decPadded acc hpos hfrac
  next hzero =>
    rw [Nat.eq_zero_of_not_pos hzero] at hfrac ⊢
    simp [charsValue, Nat.lt_one_iff.1 hfrac]

/-- The fraction stripped of its zeros does not end in one (rule R176). -/
theorem fmtStrip_mod_ten_ne_zero {f p : Nat} (hp : (fmtStrip f p).2 ≠ 0) : (fmtStrip f p).1 % 10 ≠ 0 := by
  induction p generalizing f with
  | zero => exact absurd rfl hp
  | succ p ih =>
    rw [fmtStrip] at hp ⊢
    split
    next hzero => exact ih (by simpa [hzero] using hp)
    next hne => exact hne

theorem fractionChars_getLast?_ne_zeroChar (a : Word) (prec : BitVec 3) :
    (fractionChars a prec).getLast? ≠ some 0x30#8 := by
  rw [fractionChars]
  split
  next hpos =>
    have hlast : (fmtDigits a prec).2.1 % 10 ≠ 0 := fmtStrip_mod_ten_ne_zero hpos.ne'
    rw [decPadded_getLast?, Ne, Option.some_inj, digitChar_eq_zeroChar_iff (Nat.mod_lt _ (by decide))]
    exact hlast
  next => simp

/-! ### The string in the response registers -/

theorem Response.ofChars_len_toNat {cs : List Byte} (hcs : cs.length ≤ 14) :
    (Response.ofChars cs).len.toNat = cs.length := by
  rw [ofChars_len, BitVec.toNat_ofNat]
  omega

/-- The characters a response holds are those it was made of, where they fit the buffer (rule R25). -/
theorem responseChars_ofChars {cs : List Byte} (hcs : cs.length ≤ 14) : responseChars (Response.ofChars cs) = cs := by
  rw [responseChars, Response.ofChars_len_toNat hcs, ofChars_str]
  refine List.ext_getElem (by simp; omega) fun i hi hics => ?_
  have hget := strOfChars_get cs ⟨i, by omega⟩
  rw [List.getD_eq_getElem _ _ hics] at hget
  simpa using hget

theorem exec_fmt (p : Nat) (s : State) :
    exec (.fmt p) s = .next (complete (Response.ofChars (fmtChars Config.decimalPoint s.curA (precField p))) s) :=
  exec_eq_complete (.fmt p) s

theorem fmtDigits_of_precision_eq {p q : BitVec 3} (hpq : fmtPrecision p = fmtPrecision q) (a : Word) :
    fmtDigits a p = fmtDigits a q := by
  simp only [fmtDigits, hpq]

theorem exec_fmt_of_precision_eq {p q : Nat} (hpq : fmtPrecision (precField p) = fmtPrecision (precField q)) (s : State) :
    exec (.fmt p) s = exec (.fmt q) s := by
  rw [exec_fmt, exec_fmt, fmtChars, fmtChars, fmtDigits_of_precision_eq hpq]

/-- Settles O50: the completion's response is made of the unit's string, whose length fits `LEN`. -/
theorem fmtNeverFails : Obligations.FmtNeverFails := by
  unfold Obligations.FmtNeverFails
  exact fun p s => ⟨_, exec_fmt p s, completed_complete _ s, rfl, rfl,
    Response.ofChars_len_toNat (fmtChars_length_le _ _ _), strOfChars_get _⟩

/-- Settles O51: `PREC` reaches the string through the precision alone, which 0, 2 and a masked 8 give the same. -/
theorem fmtZeroPrecisionMeansTwo : Obligations.FmtZeroPrecisionMeansTwo := by
  unfold Obligations.FmtZeroPrecisionMeansTwo
  refine ⟨fun s => ⟨exec_fmt_of_precision_eq (by decide) s, exec_fmt_of_precision_eq (by decide) s⟩, fun p => ?_⟩
  have hpos : 1 ≤ fmtPrecision p := by revert p; decide
  exact ⟨hpos, fmtPrecision_le p, fun hp => if_neg hp⟩

/-! ### The sign -/

theorem fmtDigits_of_magnitude_eq {a b : Word} (hab : magnitude a = magnitude b) (prec : BitVec 3) :
    fmtDigits a prec = fmtDigits b prec := by
  simp only [fmtDigits, integerPart, fractionPart, hab]

/-- Settles O55: the digits are those of the magnitude, which negation keeps, and the negated value has no sign. -/
theorem fmtSignIsPrefixOfMagnitude : Obligations.FmtSignIsPrefixOfMagnitude := by
  unfold Obligations.FmtSignIsPrefixOfMagnitude
  intro point a prec hneg hmin
  have hs32 : s32 (-a) = -s32 a := BitVec.toInt_neg_of_ne_intMin hmin
  have hmag : magnitude (-a) = magnitude a := by rw [magnitude, hs32, Int.natAbs_neg]
  have hnonneg : ¬s32 (-a) < 0 := by rw [hs32]; exact fun h => absurd (Int.neg_neg_iff_pos.1 h) hneg.not_gt
  rw [fmtChars, fmtChars, fmtDigits_of_magnitude_eq hmag, if_neg hnonneg, if_pos hneg]
  rfl

/-! ### The printed digits -/

/-- The only point printed is the one before a fraction: neither a sign nor a digit is one (rule R178). -/
theorem fractionChars_ne_nil_of_point_mem {a : Word} {prec : BitVec 3}
    (hpoint : Config.decimalPoint ∈ fmtChars Config.decimalPoint a prec) : fractionChars a prec ≠ [] := by
  intro hnil
  rw [fmtChars_eq_decimalString, decimalString, if_pos hnil, List.append_nil, List.mem_append] at hpoint
  obtain hsign | hwhole := hpoint
  · split at hsign
    next => exact absurd (List.mem_singleton.1 hsign) (by decide)
    next => cases hsign
  · exact (isDigitChar_of_mem_decNumeral hwhole).ne_decimalPoint rfl

theorem fmtChars_getLast? (point : Byte) {a : Word} {prec : BitVec 3} (hfrac : fractionChars a prec ≠ []) :
    (fmtChars point a prec).getLast? = some ((fractionChars a prec).getLast hfrac) := by
  rw [fmtChars_eq_decimalString, decimalString, if_neg hfrac, List.getLast?_append, List.getLast?_cons,
    List.getLast?_eq_some_getLast hfrac, Option.getD_some, Option.some_or]

/-- A digit character other than `0` is one from `1` to `9`. -/
theorem IsDigitChar.one_le_of_ne_zeroChar {c : Byte} (hc : IsDigitChar c) (hne : c ≠ 0x30#8) :
    0x31 ≤ c.toNat ∧ c.toNat ≤ 0x39 := by
  obtain ⟨hlo, hhi⟩ := hc
  exact ⟨Nat.lt_of_le_of_ne hlo fun h => hne (BitVec.eq_of_toNat_eq h.symm), hhi⟩

/-- Settles O54: the integer part is a numeral, and the fraction is stripped. -/
theorem fmtDigitsAreMinimal : Obligations.FmtDigitsAreMinimal := by
  unfold Obligations.FmtDigitsAreMinimal
  intro a prec
  refine ⟨decNumeral (fmtDigits a prec).1, fractionChars a prec, ?_, fun c hc => ?_, decNumeral_ne_nil _,
    decNumeral_of_head_zero, ?_, fractionChars_getLast?_ne_zeroChar a prec, fun hpoint => ?_⟩
  · simpa [decimalString, minusChar] using fmtChars_eq_decimalString 0x2E#8 a prec
  · exact (List.mem_append.1 hc).elim isDigitChar_of_mem_decNumeral isDigitChar_of_mem_fractionChars
  · rw [charsValue_decNumeral, Nat.zero_mul, Nat.zero_add]
  · have hfrac := fractionChars_ne_nil_of_point_mem hpoint
    refine ⟨_, fmtChars_getLast? _ hfrac, ?_⟩
    refine (isDigitChar_of_mem_fractionChars (List.getLast_mem hfrac)).one_le_of_ne_zeroChar fun hzero => ?_
    exact fractionChars_getLast?_ne_zeroChar a prec ((List.getLast?_eq_some_getLast hfrac).trans (congrArg some hzero))

/-! ### The length -/

theorem fmtChars_length (point : Byte) (a : Word) (prec : BitVec 3) :
    (fmtChars point a prec).length = (if s32 a < 0 then 1 else 0) + (decNumeral (fmtDigits a prec).1).length +
      if (fmtDigits a prec).2.2 = 0 then 0 else (fmtDigits a prec).2.2 + 1 := by
  rw [fmtChars_eq_decimalString]
  simp only [decimalString, List.length_append, apply_ite List.length, fractionChars_eq_nil_iff, List.length_cons,
    fractionChars_length, decide_eq_true_eq, List.length_nil]

/-- A fraction of zero is stripped to nothing (rule R176). -/
theorem fmtStrip_zero (p : Nat) : fmtStrip 0 p = (0, 0) := by
  induction p with
  | zero => rfl
  | succ p ih => rw [fmtStrip, if_pos (Nat.zero_mod 10), Nat.zero_div, ih]

/-- The integer part 32768 comes from a carry, which leaves the fraction 0, or from `INT32_MIN`, whose fraction is 0
(rules R175, R182). -/
theorem fmtDigits_frac_eq_zero {a : Word} {prec : BitVec 3} (hwhole : (fmtDigits a prec).1 = 32768) :
    (fmtDigits a prec).2.2 = 0 := by
  suffices hcarried : (fmtCarry (integerPart a) (fmtRounded (fmtScaled (fractionPart a) (fmtPrecision prec)))
      (fmtPrecision prec)).2 = 0 by
    simp only [fmtDigits, hcarried, fmtStrip_zero]
  simp only [fmtDigits, fmtCarry] at hwhole ⊢
  split
  next => rfl
  next hne =>
    have hint : integerPart a = 32768 := by simpa [hne] using hwhole
    have hparts := integerPart_fractionPart a
    have hle := magnitude_le a
    rw [hint, Config.fractionalBits] at hparts
    have hfrac : fractionPart a = 0 := by omega
    simp [hfrac, fmtScaled, fmtRounded]

/-- Settles O53: a string has at least the integer part's digit; the rest is the lengths of its parts. -/
theorem fmtLengthAtMost14 : Obligations.FmtLengthAtMost14 := by
  unfold Obligations.FmtLengthAtMost14
  refine ⟨fun p s => ⟨_, exec_fmt p s, ?_⟩, by decide, by decide⟩
  have hle := fmtChars_length_le Config.decimalPoint s.curA (precField p)
  have hlen := fmtChars_length Config.decimalPoint s.curA (precField p)
  have hwhole := List.length_pos_iff.2 (decNumeral_ne_nil (fmtDigits s.curA (precField p)).1)
  rw [complete_rsp, Response.ofChars_len_toNat hle]
  refine ⟨by omega, hle, fun h32768 => ?_⟩
  have hfrac : (fmtDigits s.curA (precField p)).2.2 = 0 := fmtDigits_frac_eq_zero h32768
  have hwholeLe := decNumeral_length_le (by decide) (fmtDigits_fst_lt s.curA (precField p))
  have hsign : (if s32 s.curA < 0 then 1 else 0) ≤ 1 := by split <;> decide
  rw [if_pos hfrac] at hlen
  exact ⟨hfrac, by omega⟩

/-! ### Reading the string back -/

theorem unsignedChars_sign_append {c : Byte} (hc : c ≠ minusChar) (negative : Bool) (cs : List Byte) :
    unsignedChars ((if negative then [minusChar] else []) ++ c :: cs) = c :: cs := by
  cases negative with
  | true => rfl
  | false => exact if_neg hc

theorem head?_sign_append {c : Byte} (hc : c ≠ minusChar) (negative : Bool) (cs : List Byte) :
    decide (((if negative then [minusChar] else []) ++ c :: cs).head? = some minusChar) = negative := by
  cases negative with
  | true => rfl
  | false => simpa using hc

/-- Before its point, a body of digits is its integer part; after it, its fraction. -/
theorem point_splits {point : Byte} {whole : List Byte} (hwhole : ∀ c ∈ whole, c ≠ point) (frac : List Byte) :
    (whole ++ if frac = [] then [] else point :: frac).takeWhile (· != point) = whole ∧
      ((whole ++ if frac = [] then [] else point :: frac).dropWhile (· != point)).drop 1 = frac := by
  have hpass : ∀ c ∈ whole, (c != point) = true := fun c hc => bne_iff_ne.2 (hwhole c hc)
  rw [List.takeWhile_append_of_pos hpass, List.dropWhile_append_of_pos hpass]
  split
  next hnil => simp [hnil]
  next => simp

/-- A decimal string reads back as its sign, the number its digits spell, and its count of fraction digits. -/
theorem readDecimal_decimalString {negative : Bool} {whole frac : List Byte} {n : Nat} (hne : whole ≠ [])
    (hwhole : ∀ c ∈ whole, IsDigitChar c) (hvalue : charsValue 0 (whole ++ frac) = some n) :
    readDecimal Config.decimalPoint (decimalString Config.decimalPoint negative whole frac) =
      some ⟨negative, n, frac.length⟩ := by
  obtain ⟨htake, hdrop⟩ := point_splits (fun c hc => (hwhole c hc).ne_decimalPoint) frac
  obtain ⟨c, cs, rfl⟩ := List.exists_cons_of_ne_nil hne
  have hc := (hwhole c List.mem_cons_self).ne_minusChar
  simp only [readDecimal, decimalString, List.append_assoc, List.cons_append] at htake hdrop hvalue ⊢
  rw [unsignedChars_sign_append hc, head?_sign_append hc, htake, hdrop, List.cons_append, hvalue]
  exact if_neg hne

/-- What is printed, as a numeral: the raw value's sign, and the integer part's digits and then the fraction's as one number
(rule R178). -/
def printedReading (a : Word) (prec : BitVec 3) : Reading :=
  { negative := decide (s32 a < 0)
    number := (fmtDigits a prec).1 * 10 ^ (fmtDigits a prec).2.2 + (fmtDigits a prec).2.1
    places := (fmtDigits a prec).2.2 }

theorem readDecimal_fmtChars (a : Word) (prec : BitVec 3) :
    readDecimal Config.decimalPoint (fmtChars Config.decimalPoint a prec) = some (printedReading a prec) := by
  have hvalue : charsValue 0 (decNumeral (fmtDigits a prec).1 ++ fractionChars a prec) =
      some (printedReading a prec).number := by
    rw [charsValue_append (charsValue_decNumeral 0 _), Nat.zero_mul, Nat.zero_add, charsValue_fractionChars, printedReading]
  rw [fmtChars_eq_decimalString,
    readDecimal_decimalString (decNumeral_ne_nil _) (fun c hc => isDigitChar_of_mem_decNumeral hc) hvalue,
    fractionChars_length, printedReading]

/-! ### Half a unit of the last digit -/

/-- The carry keeps the value of the two parts (rule R175). -/
theorem fmtCarry_value (ip f p : Nat) :
    ((fmtCarry ip f p).1 : ℚ) + ((fmtCarry ip f p).2 : ℚ) / 10 ^ p = ip + (f : ℚ) / 10 ^ p := by
  rw [fmtCarry]
  split
  next hcarry => simp [hcarry]
  next => rfl

/-- Stripping keeps the value of the fraction (rule R176). -/
theorem fmtStrip_value (f p : Nat) : ((fmtStrip f p).1 : ℚ) / 10 ^ (fmtStrip f p).2 = f / 10 ^ p := by
  induction p generalizing f with
  | zero => rfl
  | succ p ih =>
    rw [fmtStrip]
    split
    next hzero =>
      rw [ih, Nat.cast_div (Nat.dvd_of_mod_eq_zero hzero) (by norm_num), pow_succ', Nat.cast_ofNat, div_div]
    next => rfl

/-- The value of the printed digits is the integer part and the fraction rounded to the precision (rules R174 to R176). -/
theorem printedReading_value (a : Word) (prec : BitVec 3) :
    ((printedReading a prec).number : ℚ) / 10 ^ (printedReading a prec).places =
      integerPart a + (fmtRounded (fmtScaled (fractionPart a) (fmtPrecision prec)) : ℚ) / 10 ^ fmtPrecision prec := by
  simp only [printedReading]
  rw [Nat.cast_add, Nat.cast_mul, Nat.cast_pow, Nat.cast_ofNat, add_div, mul_div_cancel_right₀ _ (by positivity)]
  simp only [fmtDigits, fmtStrip_value, fmtCarry_value]

/-- Rounding half up on the guard digit is within half a unit of the fraction: above it by at most a half, below it by less
(rules R173, R174). -/
theorem fmtRounded_fmtScaled_bounds (fr p : Nat) :
    2 * (fr * 10 ^ p) < 2 ^ 16 * (2 * fmtRounded (fmtScaled fr p) + 1) ∧
      2 ^ 16 * (2 * fmtRounded (fmtScaled fr p)) ≤ 2 * (fr * 10 ^ p) + 2 ^ 16 := by
  have hscaled : fmtScaled fr p = 10 * (fr * 10 ^ p) / 2 ^ 16 := by rw [fmtScaled, pow_succ', Nat.mul_left_comm]
  rw [fmtRounded_eq, hscaled]
  omega

theorem magnitude_eq_parts (a : Word) : (magnitude a : ℚ) / 2 ^ 16 = integerPart a + (fractionPart a : ℚ) / 2 ^ 16 := by
  rw [← integerPart_fractionPart a, Nat.cast_add, add_div, Nat.cast_mul, Nat.cast_pow, Nat.cast_ofNat,
    mul_div_cancel_right₀ _ (by positivity)]

/-- What is printed is within half a unit of the last digit before stripping of the exact magnitude (rule R184). -/
theorem printedReading_sub_magnitude_mem (a : Word) (prec : BitVec 3) :
    ((printedReading a prec).number : ℚ) / 10 ^ (printedReading a prec).places - (magnitude a : ℚ) / 2 ^ 16 ∈
      Set.Ioc (-(1 / 2) / 10 ^ fmtPrecision prec : ℚ) ((1 / 2) / 10 ^ fmtPrecision prec) := by
  obtain ⟨hbelow, habove⟩ := fmtRounded_fmtScaled_bounds (fractionPart a) (fmtPrecision prec)
  have hpow : (0 : ℚ) < 10 ^ fmtPrecision prec := by positivity
  have hscale : (fractionPart a : ℚ) / 2 ^ 16 =
      fractionPart a * 10 ^ fmtPrecision prec / 2 ^ 16 / 10 ^ fmtPrecision prec := by field_simp
  rw [printedReading_value, magnitude_eq_parts, add_sub_add_left_eq_sub, hscale, ← sub_div, Set.mem_Ioc,
    div_lt_div_iff_of_pos_right hpow, div_le_div_iff_of_pos_right hpow]
  qify at hbelow habove
  constructor <;> linarith

theorem printedReading_places_le (a : Word) (prec : BitVec 3) : (printedReading a prec).places ≤ fmtPrecision prec :=
  (fmtStrip_bounds (fmtCarry_snd_lt _ _ (Nat.mod_lt _ (by decide)))).1

/-- Settles O52: the string reads back as what is printed, which is within half a unit of the magnitude. -/
theorem fmtPrintsWithinHalfUnit : Obligations.FmtPrintsWithinHalfUnit := by
  unfold Obligations.FmtPrintsWithinHalfUnit
  intro p s
  refine ⟨_, printedReading s.curA (precField p), exec_fmt p s, ?_, rfl, printedReading_places_le s.curA (precField p),
    printedReading_sub_magnitude_mem s.curA (precField p)⟩
  rw [complete_rsp, responseChars_ofChars (fmtChars_length_le _ _ _)]
  exact readDecimal_fmtChars s.curA (precField p)

end Sys2Proof.Machine
end

section
/-! PROOFS. Faults and errors: which steps stop, how a respectful host runs safely for ever, and the codes a failed request
reports (rules R200 to R206, R234). -/

namespace Sys2Proof.Machine

/-! ### Which steps stop -/

/-- Where the host's move has a value the block answers, whatever the edge (rule R204). It leaves the script as the host's
move left it, and undoes no reset. -/
theorem step_of_hostEdge_ok {s h : State} {p : Pins} (hh : hostEdge s = .ok (p, h)) :
    ∃ t, step s = .next t ∧ t.script = h.script ∧ (s.wasReset = true → t.wasReset = true) := by
  obtain ⟨-, -, -, -, -, -, hreset, -⟩ := hostEdge_keeps hh
  cases hrst : p.rst with
  | true => exact ⟨_, step_of_reset hh hrst, rfl, fun _ => rfl⟩
  | false =>
    cases hb : s.busy with
    | true =>
      by_cases hw : s.wait = 0
      · exact ⟨_, step_of_due hh hrst hb hw, rfl, hreset.trans⟩
      · exact ⟨_, step_of_wait hh hrst hb hw, rfl, hreset.trans⟩
    | false =>
      cases hvalid : p.reqValid with
      | true => exact ⟨_, step_of_accept hh hrst hvalid hb, rfl, hreset.trans⟩
      | false => exact ⟨_, step_of_idle hh hrst hvalid hb, rfl, hreset.trans⟩

/-- Settles O20: where the host's move has a value the edge answers, and where it has none the step is its fault. -/
theorem blockNeverTraps : Obligations.BlockNeverTraps := by
  unfold Obligations.BlockNeverTraps
  refine ⟨fun s => ⟨fun ⟨t, hstep⟩ => ?_, fun ⟨p, h, hh⟩ => ?_⟩, fun s r hrefused => ?_⟩
  · cases hh : hostEdge s with
    | ok ph => exact ⟨ph.1, ph.2, rfl⟩
    | error f => simp [step_of_hostEdge_error hh] at hstep
  · obtain ⟨t, hnext, -⟩ := step_of_hostEdge_ok hh
    exact ⟨t, hnext⟩
  · cases hh : hostEdge s with
    | ok ph =>
      obtain ⟨t, hnext, -⟩ := step_of_hostEdge_ok hh
      simp [hnext] at hrefused
    | error f => simp [step_of_hostEdge_error hh] at hrefused

/-! ### A respectful host -/

/-- The host's moves to come are among those it had: it makes the next one, or keeps it. -/
theorem script_subset_of_hostEdge {s h : State} {p : Pins} (hh : hostEdge s = .ok (p, h)) : h.script ⊆ s.script := by
  have hpop : (popMove (observe s)).script ⊆ s.script := by simpa using List.tail_subset s.script
  have hkeep : (observe s).script ⊆ s.script := by simp
  obtain ⟨-, rfl, -⟩ | ⟨_, -, rfl⟩ | ⟨_, _, _, _, _, _, -, -, rfl⟩ | ⟨_, _, _, -, -, -, rfl⟩ := hostMove_cases hh
  · exact hkeep
  · exact hpop
  · split
    next => exact hkeep
    next => exact hpop
  · exact hpop

/-- A state after a reset that meets the invariant, with a host that respects rule R234. -/
structure RespectfulState (s : State) : Prop where
  inv : s.Inv
  wasReset : s.wasReset = true
  moves : ∀ m ∈ s.script, m.respectful = true

/-- A respectful host's move has a value: it drives words, waits while no response is valid, and reads one that is
(rules R200, R234). -/
theorem RespectfulState.hostEdge_ok {s : State} (hs : RespectfulState s) : ∃ p h, hostEdge s = .ok (p, h) := by
  cases hscript : s.script with
  | nil => exact ⟨Pins.idle, observe s, by simp [hostEdge, hostMove, hscript]⟩
  | cons m rest =>
    have hm : m.respectful = true := hs.moves m (by simp [hscript])
    cases m with
    | drive p => exact ⟨p, popMove (observe s), by simp [hostEdge, hostMove, hscript]⟩
    | hold cmd a b =>
      obtain ⟨ha, hb⟩ : a.isWord = true ∧ b.isWord = true := by simpa [HostMove.respectful] using hm
      obtain ⟨x, hx⟩ := resolve_of_isWord (observe s).results ha
      obtain ⟨y, hy⟩ := resolve_of_isWord (observe s).results hb
      exact ⟨Pins.request cmd x y, if s.busy then observe s else popMove (observe s),
        by simp [hostEdge, hostMove, hscript, hx, hy]⟩
    | await =>
      obtain ⟨⟨herr, -⟩, -⟩ := hs.inv
      cases hvalid : s.rspValid with
      | false => exact ⟨_, _, hostEdge_of_awaiting hscript hs.wasReset hvalid⟩
      | true => exact ⟨_, _, hostEdge_of_reading hscript (.inr rfl) hs.wasReset hvalid herr⟩
    | read => cases hm

/-- A respectful host's step answers a state whose host is respectful again. -/
theorem RespectfulState.step_next {s : State} (hs : RespectfulState s) : ∃ t, step s = .next t ∧ RespectfulState t := by
  obtain ⟨p, h, hh⟩ := hs.hostEdge_ok
  obtain ⟨t, hstep, hscript, hreset⟩ := step_of_hostEdge_ok hh
  exact ⟨t, hstep, stepKeepsResponseInvariant s t hs.inv hstep, hreset hs.wasReset,
    fun m hm => hs.moves m (script_subset_of_hostEdge hh (hscript ▸ hm))⟩

/-- A property under which every step answers a state that has it again makes every run safe. -/
theorem safeRun_of_step_next {I : State → Prop} (hI : ∀ s, I s → ∃ t, step s = .next t ∧ I t) (k : Nat) {s : State}
    (hs : I s) : SafeRun k s := by
  induction k generalizing s with
  | zero => exact ⟨s, run_zero s⟩
  | succ k ih =>
    obtain ⟨t, hstep, ht⟩ := hI s hs
    obtain ⟨u, hrun⟩ := ih ht
    exact ⟨u, (run_succ_of_next k hstep).trans hrun⟩

/-- Settles O21: a respectful host's step answers a state whose host is respectful again. -/
theorem respectfulHostRunsSafely : Obligations.RespectfulHostRunsSafely := by
  unfold Obligations.RespectfulHostRunsSafely
  exact fun s hinv hreset hmoves k => safeRun_of_step_next (fun _ => RespectfulState.step_next) k ⟨hinv, hreset, hmoves⟩

/-! ### Failed requests -/

/-- A unit's response reports no error, or is an error's response (rules R67, R201). -/
theorem ofUnit_err_eq_zero_or_ofError (u : Except ErrKind Word) :
    (Response.ofUnit u).err = 0 ∨ ∃ e, u = .error e ∧ Response.ofUnit u = Response.ofError e := by
  cases u with
  | ok y => exact .inl rfl
  | error e => exact .inr ⟨e, rfl, rfl⟩

/-- A command's response reports no error, or is an error's response (rules R67, R201). -/
theorem commandResponse_err_eq_zero_or_ofError (i : Instr) (a b : Word) :
    (commandResponse i a b).err = 0 ∨ ∃ e, commandResponse i a b = Response.ofError e := by
  have hunit (u : Except ErrKind Word) : (Response.ofUnit u).err = 0 ∨ ∃ e, Response.ofUnit u = Response.ofError e :=
    (ofUnit_err_eq_zero_or_ofError u).imp_right fun ⟨e, _, he⟩ => ⟨e, he⟩
  cases i with
  | div p => exact hunit _
  | f2q p => exact hunit _
  | _ => exact .inl rfl

/-- Where `Execute` reports a code, its response is that error's, for legal and illegal words alike (rules R65, R201). -/
theorem execute_eq_ofError {w : Byte} {a b : Word} (herr : (execute w a b).err ≠ 0) :
    ∃ e, execute w a b = Response.ofError e := by
  rw [execute_eq_decodedResponse] at herr ⊢
  cases hd : decode w with
  | instr i =>
    rw [hd] at herr
    exact (commandResponse_err_eq_zero_or_ofError i a b).resolve_left herr
  | illegal why => exact ⟨.illegalCommand, rfl⟩

/-- Settles O30: the step is a completion with an error's response. -/
theorem failureIsAtomic : Obligations.FailureIsAtomic := by
  unfold Obligations.FailureIsAtomic
  intro s h t p hh hrst hb hw hstep herr
  obtain rfl := Host.Outcome.next.inj ((step_of_due hh hrst hb hw).symm.trans hstep)
  obtain ⟨e, he⟩ := execute_eq_ofError herr
  rw [he]
  exact ⟨answersError_complete e h, keepsRest_complete _ h⟩

/-! ### The codes of each command -/

/-- `DIV` fails on a zero divisor alone (rules R125, R202). -/
theorem eq_divideByZero_of_divWord {a b : Word} {e : ErrKind} (h : divWord a b = .error e) : e = .divideByZero := by
  by_cases hb : b = 0
  · rw [hb, divWord_zero] at h
    exact (Except.error.inj h).symm
  · rw [divWord_of_ne_zero a hb] at h
    cases h

/-- The errors of `F2Q`, in the order of its steps (rules R140, R202). -/
theorem f2qWord_error_cases {clampExp : Nat} {f : Word} {e : ErrKind} (h : f2qWord clampExp f = .error e) :
    e = .infinity ∨ e = .nan ∨ e = .denormalized ∨ e = .outOfRange := by
  simp only [f2qWord] at h
  split_ifs at h
  · exact .inl (Except.error.inj h).symm
  · exact .inr (.inl (Except.error.inj h).symm)
  · exact .inr (.inr (.inl (Except.error.inj h).symm))
  · exact .inr (.inr (.inr (Except.error.inj h).symm))

theorem div_err_eq (a b : Word) : (Response.ofUnit (divWord a b)).err = 0 ∨ (Response.ofUnit (divWord a b)).err = 5 := by
  refine (ofUnit_err_eq_zero_or_ofError (divWord a b)).imp_right fun ⟨e, hunit, hresp⟩ => ?_
  rw [hresp, eq_divideByZero_of_divWord hunit]
  rfl

theorem f2q_err_eq (c : Nat) (f : Word) :
    let r := Response.ofUnit (f2qWord c f)
    r.err = 0 ∨ r.err = 1 ∨ r.err = 2 ∨ r.err = 3 ∨ r.err = 4 := by
  refine (ofUnit_err_eq_zero_or_ofError (f2qWord c f)).imp_right fun ⟨e, hunit, hresp⟩ => ?_
  rw [hresp]
  obtain rfl | rfl | rfl | rfl := f2qWord_error_cases hunit <;> decide

/-- Settles O31: five commands have no failing unit, the errors of `DIV` and `F2Q` are those of their units, and an illegal
word's response is IllegalCommand's. -/
theorem reportableCodes : Obligations.ReportableCodes := by
  unfold Obligations.ReportableCodes
  refine ⟨fun i s t hexec => ?_, fun w a b hw => ?_⟩
  · obtain rfl := Host.Outcome.next.inj ((exec_eq_complete i s).symm.trans hexec)
    cases i with
    | div p => exact div_err_eq s.curA s.curB
    | f2q p => exact f2q_err_eq _ s.curA
    | _ => rfl
  · rw [execute_eq_decodedResponse]
    cases hd : decode w with
    | instr i => simp [hd, Decoded.toOption] at hw
    | illegal why => rfl

end Sys2Proof.Machine
end

section
/-! PROOFS. The reset edge, and what a read or a wait gives where no response has a value (rules R230, R231, R234). -/

namespace Sys2Proof.Machine

/-! ### The reset edge -/

/-- Settles O8: the edge is a reset edge, whose response is the cleared one, and the request on the port has no effect. -/
theorem resetEdgeClearsResponse : Obligations.ResetEdgeClearsResponse := by
  unfold Obligations.ResetEdgeClearsResponse
  intro s h p hh hrst
  exact ⟨resetEdge h, step_of_reset hh hrst, rfl, rfl, ⟨rfl, strOfChars_nil_get⟩, rfl, rfl, rfl, rfl, rfl⟩

/-! ### Reads without a value -/

/-- Before the first reset edge a read has no value (rule R231). -/
theorem sample_before_reset {s : State} (hreset : s.wasReset = false) : sample s = .error .readBeforeReset :=
  if_pos (by simp [hreset])

/-- After a reset, a read has no value while no response is valid (rule R234, first hazard). -/
theorem sample_of_not_valid {s : State} (hreset : s.wasReset = true) (hvalid : s.rspValid = false) :
    sample s = .error .staleRead := by
  simp [sample, hreset, hvalid]

/-- What the host notes of a response does not change what it reads. -/
@[simp] theorem sample_observe (s : State) : sample (observe s) = sample s := by
  simp [sample]

/-- A read that has no value stops the step, and so does a wait before the first reset edge (rule R231; log entry 9). -/
theorem step_of_sample_error {s : State} {m : HostMove} {rest : List HostMove} {f : Fault} (hscript : s.script = m :: rest)
    (hm : m = .read ∨ m = .await ∧ s.wasReset = false) (hf : sample s = .error f) : step s = .fault f := by
  refine step_of_hostEdge_error ?_
  obtain rfl | ⟨rfl, hreset⟩ := hm
  · simp [hostEdge, hostMove, hscript, hf]
  · simp [hostEdge, hostMove, hscript, hreset, hf]

/-- A host that awaits a response after a reset goes on waiting while none is valid, whether the block idles, waits or
completes at this edge (rule R234, fourth hazard). -/
theorem step_of_awaiting {s : State} {rest : List HostMove} (hscript : s.script = .await :: rest)
    (hreset : s.wasReset = true) (hvalid : s.rspValid = false) :
    ∃ t, step s = .next t ∧ t.script = s.script ∧ t.seen = s.seen := by
  have hh := hostEdge_of_awaiting hscript hreset hvalid
  cases hb : s.busy with
  | false => exact ⟨_, step_of_idle hh rfl rfl hb, rfl, rfl⟩
  | true =>
    by_cases hw : s.wait = 0
    · exact ⟨_, step_of_due hh rfl hb hw, rfl, rfl⟩
    · exact ⟨_, step_of_wait hh rfl hb hw, rfl, rfl⟩

/-- Settles O24: a read has no value before the first reset edge or while no response is valid, and a wait after a reset reads
nothing. -/
theorem readsWithoutValueFault : Obligations.ReadsWithoutValueFault := by
  unfold Obligations.ReadsWithoutValueFault
  refine fun s rest => ⟨fun hreset hscript => ?_, fun hreset hvalid hscript => ?_, fun hreset hvalid hscript => ?_⟩
  · obtain hscript | hscript := hscript
    · exact step_of_sample_error hscript (.inl rfl) (sample_before_reset hreset)
    · exact step_of_sample_error hscript (.inr ⟨rfl, hreset⟩) (sample_before_reset hreset)
  · exact step_of_sample_error hscript (.inl rfl) (sample_of_not_valid hreset hvalid)
  · exact step_of_awaiting hscript hreset hvalid

end Sys2Proof.Machine
end
